-- ==== Sys2Proof/Word.lean ====
section
/-! DEFINITION. The words of the block: `RW = 2 * PW` bits wide (R5), unsigned, bit 0 least
significant (R7); and the 4-bit slot numbers of the host register window (R15, `AW = 4` of R5). -/

namespace Sys2Proof

/-- A host-visible register's contents: `RW = 2 * PW` bits (R5, R15). -/
abbrev Word (PW : Nat) := BitVec (2 * PW)

/-- A slot number of the host register window: `AW = 4` bits (R5, R15). -/
abbrev Addr := BitVec 4

end Sys2Proof
end

