-- ==== Sys2Proof/Config.lean ====
section
/-! DEFINITION. What an implementation of the block fixes: the prime width `PW` (R5; decision D2
leaves it open). `RW = 2 * PW` and `AW = 4` follow from it. The spec leaves no value free
(93_implementation_defined.md, section 2, last line), so there is no free value here. -/

namespace Sys2Proof.Config

/-- The constraint of R5 on the prime width. -/
def legalWidth (PW : Nat) : Bool := decide (16 ≤ PW)

/-- The implementation parameters of R5: the width `PW` of the prime operands with its constraint.
A claim about a state is a claim for every width. -/
structure Params where
  PW : Nat
  legal : 16 ≤ PW
  deriving DecidableEq, Repr

/-- The reference value of R5: `PW = 32`, so `RW = 64`. -/
def reference : Params := { PW := 32, legal := by decide }

end Sys2Proof.Config
end

