-- ==== Sys2Proof/Syntax.lean ====
section
/-! DEFINITION. The terms of 30_encoding.md: the four commands (R47), the registers by name (R15,
R53), the host transactions (R45), what a host program does next (R53, R54), whose turn it is (R41),
and the lines of a host program (R53, R54). -/

namespace Sys2Proof

/-- The commands of R47, one per row of the opcode table. A command has no operand field (R46, R48,
R49): every operand is an implicit register. -/
inductive Instr where
  | build
  | genkey
  | enc
  | dec
  deriving DecidableEq, Repr

/-- The named registers of R15 (the `REG` of R53). -/
inductive Reg where
  | ctrl
  | status
  | cmd
  | pIn
  | qIn
  | p
  | q
  | n
  | l
  | e
  | d
  | din
  | dout
  deriving DecidableEq, Repr

/-- A host transaction (R45): `R a` or `W a v`. It has no other field. -/
inductive Transaction (PW : Nat) where
  | read (a : Addr)
  | write (a : Addr) (v : Word PW)
  deriving DecidableEq, Repr

/-- What the host does next (R53, R54): one transaction, or the loop of `wait`, which reads STATUS and
goes round again while bit 0 of the value is 1. -/
inductive HostOp (PW : Nat) where
  | access (t : Transaction PW)
  | poll
  deriving DecidableEq, Repr

/-- Who takes a step (R41): the host (its next access in program order), the sequencer (its only step
is the completion of the command in flight, R103), or the platform with a reset (R117). -/
inductive Turn where
  | host
  | sequencer
  | reset
  deriving DecidableEq, Repr

/-- The `value` of a `wr` line (R53): a number, or a character literal, which stands for its Unicode
scalar value (R97). -/
inductive Value where
  | num (n : Nat)
  | chr (c : Char)
  deriving DecidableEq, Repr

/-- A line of a host program: the forms of R53 and the pseudo-instructions of R54. -/
inductive Line where
  | wr (r : Reg) (v : Value)
  | rd (r : Reg)
  | cmd (i : Instr)
  | wait
  | construct (p q : Value)
  | generateKey
  | getKey
  | enc1 (c : Value)
  | dec1 (v : Value)
  | encrypt (cs : List Value)
  | decrypt (vs : List Value)
  deriving DecidableEq, Repr

end Sys2Proof
end

