-- ==== Sys2Proof/WellFormed.lean ====
section
/-! DEFINITION. What a well-formed term is. A command has no operand, so there is nothing to check in
it (R46, R49). A value of a host program must fit a register (R45, R53: "below `2^RW`"); a command
word must have `RSV = 0` and an assigned opcode (R46, R51). The width's check is
`Config.legalWidth` (R5). -/

namespace Sys2Proof

/-- Every command is well formed: it has no operand that a check could refuse (R49). -/
def Instr.wellFormed : Instr → Bool
  | .build => true
  | .genkey => true
  | .enc => true
  | .dec => true

/-- The integer a value stands for (R53): a character literal is its scalar value (R97). -/
def Value.toNat : Value → Nat
  | .num n => n
  | .chr c => c.toNat

/-- A value fits a register of `RW` bits (R45, R53). -/
def Value.wellFormed (PW : Nat) (v : Value) : Bool := decide (v.toNat < 2 ^ (2 * PW))

/-- A line whose every value fits a register (R53, R54). -/
def Line.wellFormed (PW : Nat) : Line → Bool
  | .wr _ v => v.wellFormed PW
  | .rd _ => true
  | .cmd i => i.wellFormed
  | .wait => true
  | .construct p q => p.wellFormed PW && q.wellFormed PW
  | .generateKey => true
  | .getKey => true
  | .enc1 c => c.wellFormed PW
  | .dec1 v => v.wellFormed PW
  | .encrypt cs => cs.all fun c => c.wellFormed PW
  | .decrypt vs => vs.all fun v => v.wellFormed PW

/-- A command word of the one format C that is not reserved (R46, R51): `RSV = 0` and an opcode that
R47 assigns. -/
def wordWellFormed {PW : Nat} (w : Word PW) : Bool :=
  decide (w.toNat / 256 = 0) && decide (1 ≤ w.toNat % 256 ∧ w.toNat % 256 ≤ 4)

end Sys2Proof
end

