-- ==== Sys2Proof/Decode.lean ====
section
/-! DEFINITION. The command word of R46 (format C), its decoding (R50, R51), total on every word and
rejecting by name, and its encoding from the assignment of R47. -/

namespace Sys2Proof

/-- Why a word is no command (R51). Both reasons make the command complete with ILLEGAL_COMMAND
(R50). -/
inductive Reject where
  /-- some bit of `RSV = w[RW-1:8]` is 1 -/
  | reservedBits
  /-- `OPC` is 0x00 or 0x05 to 0xFF -/
  | reservedOpcode
  deriving DecidableEq, Repr

/-- Field OPC of R46: bits 7:0. -/
def opcField {PW : Nat} (w : Word PW) : BitVec 8 := w.extractLsb' 0 8

/-- Field RSV of R46: bits RW-1:8. -/
def rsvField {PW : Nat} (w : Word PW) : BitVec (2 * PW - 8) := w.extractLsb' 8 (2 * PW - 8)

/-- The command an operation code selects (R47); the other codes are reserved (R51). -/
def ofOpcode (opc : BitVec 8) : Except Reject Instr :=
  if opc = 0x01#8 then .ok .build
  else if opc = 0x02#8 then .ok .genkey
  else if opc = 0x03#8 then .ok .enc
  else if opc = 0x04#8 then .ok .dec
  else .error .reservedOpcode

/-- The decode of R50: RSV is checked first, then OPC. -/
def decode {PW : Nat} (w : Word PW) : Except Reject Instr :=
  if rsvField w ≠ 0 then .error .reservedBits else ofOpcode (opcField w)

/-- The operation code of a command (R47). -/
def opcode : Instr → BitVec 8
  | .build => 0x01#8
  | .genkey => 0x02#8
  | .enc => 0x03#8
  | .dec => 0x04#8

/-- The full command word `zext_RW(OPC)` (R47). -/
def encode (PW : Nat) (i : Instr) : Word PW := (opcode i).setWidth (2 * PW)

/-- The word of `RW` bits made of a table word's `nbits` bits, none if a bit lies above `RW`. -/
def wordOfTable (PW nbits w : Nat) : Option (Word PW) :=
  if w % 2 ^ nbits < 2 ^ (2 * PW) then some (BitVec.ofNat (2 * PW) (w % 2 ^ nbits)) else none

/-- The command the decoder reads from a table word, at the reference width of R5 (the width of
opcode_table.json's own match and mask). -/
def decodeTableWord (nbits w : Nat) : Option Instr :=
  match wordOfTable Config.reference.PW nbits w with
  | none => none
  | some v =>
    match decode v with
    | .ok i => some i
    | .error _ => none

end Sys2Proof
end

