-- ==== Sys2Proof/Machine/State.lean ====
section
/-! DEFINITION. The state: the registers of R15 with the sequencer of R25 (`Block`, the whole
architectural state by R27), the parameter of R5, and beside them the model's own fields for the
world outside the block: what the host still does (R53), who takes the next steps (R41), and the values
host reads have returned (R34). Plain data throughout. -/

namespace Sys2Proof.Machine

/-- CTRL.MODE (R17): 0 is LEGACY, 1 is STRICT. -/
inductive Mode where
  | legacy
  | strict
  deriving DecidableEq, Repr

/-- The error codes of R101. Codes 9 to 15 are never produced (R18, S6), so they are no values. -/
inductive ErrCode where
  | noError
  | illegalCommand
  | notConstructed
  | keyNotGenerated
  | invalidModulusInput
  | degenerateTotient
  | invalidChar
  | codepointOverflow
  | invalidScalar
  deriving DecidableEq, Repr

/-- The sequencer state of R25: IDLE, or BUSY with the command word in flight and the mode latched at
its issue. -/
inductive Seq (PW : Nat) where
  | idle
  | busy (w : Word PW) (m : Mode)
  deriving DecidableEq, Repr

/-- The architectural state (R27): the registers of R15 and the sequencer.

* `mode` is CTRL's only field (R17).
* `done`, `modValid`, `keyValid`, `ovr` and `err` are STATUS's fields (R18). BUSY is not stored a second
  time: it is 1 exactly when `seq` is not idle (R25).
* CMD stores nothing (R19): the word written to it is the `w` of `seq`. -/
structure Block (PW : Nat) where
  mode : Mode
  done : Bool
  modValid : Bool
  keyValid : Bool
  ovr : Bool
  err : ErrCode
  pIn : Word PW
  qIn : Word PW
  p : Word PW
  q : Word PW
  n : Word PW
  l : Word PW
  e : Word PW
  d : Word PW
  din : Word PW
  dout : Word PW
  seq : Seq PW
  deriving DecidableEq, Repr

/-- The reset values of R29: every register 0, MODE = LEGACY, no flag set, ERR = 0, IDLE. -/
def Block.reset (PW : Nat) : Block PW where
  mode := .legacy
  done := false
  modValid := false
  keyValid := false
  ovr := false
  err := .noError
  pIn := 0
  qIn := 0
  p := 0
  q := 0
  n := 0
  l := 0
  e := 0
  d := 0
  din := 0
  dout := 0
  seq := .idle

/-- The machine's state.

* `params`: the implementation's width (R5), fixed for the machine.
* `block`: the architectural state.
* `program`: the MODEL's own field (log entry 2): what the host still does, in program order (R41).
* `schedule`: the MODEL's own field (log entry 2): who takes the next steps. It is the open point of
  R41, where completions (and resets, R117) fall among the host's accesses, given as data.
* `readLog`: the MODEL's own field (log entry 4): slot and value of every host read made, newest
  first. -/
structure State where
  params : Config.Params
  block : Block params.PW
  program : List (HostOp params.PW)
  schedule : List Turn
  readLog : List (Addr × Word params.PW)
  deriving DecidableEq, Repr

/-- Why the machine can stop. -/
inductive Fault where
  /-- Raised by the meaning of a command run while the sequencer is IDLE: the completion step "is
  enabled exactly when `seq = BUSY(w, m)`" (R103), so there is no such step. `step` never raises it.
  Safe: the machine stops where the block has no step. -/
  | noCommandInFlight
  deriving DecidableEq, Repr

/-- Why an instruction can have no meaning. -/
inductive Refusal where
  /-- Raised by `exec` for a command without a meaning; no arm does so. Safe. -/
  | notModelled (mnemonic : String)
  deriving DecidableEq, Repr

/-- The machine right after reset, at the reference width (R5, R29), with no host program: the block
waits in IDLE for the host (R119). -/
def State.reset : State where
  params := Config.reference
  block := Block.reset Config.reference.PW
  program := []
  schedule := []
  readLog := []

/-- The state with another block of the same width. -/
abbrev State.setBlock (s : State) (b : Block s.params.PW) : State := { s with block := b }

/-- The state with another host program to go on with. -/
abbrev State.setProgram (s : State) (ops : List (HostOp s.params.PW)) : State :=
  { s with program := ops }

/-- The state with another schedule. -/
abbrev State.setSchedule (s : State) (ts : List Turn) : State := { s with schedule := ts }

end Sys2Proof.Machine
end

