-- ==== Sys2Proof/Machine/Flags.lean ====
section
/-! DEFINITION. The fields of CTRL and STATUS (R17, R18): their places in the word a host reads, and
the error codes' numbers (R101). -/

namespace Sys2Proof.Machine

/-- The code of STATUS.ERR (R101). -/
def ErrCode.code : ErrCode → BitVec 4
  | .noError => 0
  | .illegalCommand => 1
  | .notConstructed => 2
  | .keyNotGenerated => 3
  | .invalidModulusInput => 4
  | .degenerateTotient => 5
  | .invalidChar => 6
  | .codepointOverflow => 7
  | .invalidScalar => 8

/-- MODE as the bit of R17. -/
def Mode.toBit : Mode → Bool
  | .legacy => false
  | .strict => true

/-- MODE from the bit of R17. -/
def Mode.ofBit : Bool → Mode
  | false => .legacy
  | true => .strict

/-- STATUS.BUSY is 1 exactly when the sequencer is not IDLE (R25). -/
def Block.busy {PW : Nat} (b : Block PW) : Bool :=
  match b.seq with
  | .idle => false
  | .busy _ _ => true

/-- CTRL as read (R17): MODE in bit 0, the reserved bits 0. -/
def Block.ctrlWord {PW : Nat} (b : Block PW) : Word PW :=
  (BitVec.ofBool b.mode.toBit).setWidth (2 * PW)

/-- STATUS as read (R18): ERR in 11:8, 0 in 7:5, then OVR, KEY_VALID, MOD_VALID, DONE and BUSY in
bits 4 to 0, and 0 above. -/
def Block.statusWord {PW : Nat} (b : Block PW) : Word PW :=
  (b.err.code ++ 0#3 ++ BitVec.ofBool b.ovr ++ BitVec.ofBool b.keyValid ++
    BitVec.ofBool b.modValid ++ BitVec.ofBool b.done ++ BitVec.ofBool b.busy).setWidth (2 * PW)

end Sys2Proof.Machine
end

