-- ==== Sys2Proof/Machine/Operands.lean ====
section
/-! DEFINITION. The slots of the host register window (R15, R32). Every operand of a command is the
unsigned value of a whole register (R48), read as `toNat` of the field. -/

namespace Sys2Proof.Machine

/-- The slot of a register (R15). -/
def slotOf : Reg → Addr
  | .ctrl => 0x0
  | .status => 0x1
  | .cmd => 0x2
  | .pIn => 0x3
  | .qIn => 0x4
  | .p => 0x5
  | .q => 0x6
  | .n => 0x7
  | .l => 0x8
  | .e => 0x9
  | .d => 0xA
  | .din => 0xB
  | .dout => 0xC

/-- The register at a slot (R15); slots 0xD to 0xF are reserved. -/
def regAt (a : Addr) : Option Reg :=
  match a.toNat with
  | 0 => some .ctrl
  | 1 => some .status
  | 2 => some .cmd
  | 3 => some .pIn
  | 4 => some .qIn
  | 5 => some .p
  | 6 => some .q
  | 7 => some .n
  | 8 => some .l
  | 9 => some .e
  | 10 => some .d
  | 11 => some .din
  | 12 => some .dout
  | _ => none

end Sys2Proof.Machine
end

