-- ==== Sys2Proof/Machine/Ops.lean ====
section
/-! DEFINITION. The named operations over the registers: the host's read (R34) and write (R35 to
R37), the issue of a command (R36), and the completion (R103, R104). An error is an outcome of a
command and no trap (R102, R110): `Block.raise` is the one operation that every error takes, and
there is no return from it (R106). -/

namespace Sys2Proof.Machine

/-- The value a host read of a register returns (R34, R16): CMD reads as 0 (R19). -/
def Block.readReg {PW : Nat} (b : Block PW) : Reg → Word PW
  | .ctrl => b.ctrlWord
  | .status => b.statusWord
  | .cmd => 0
  | .pIn => b.pIn
  | .qIn => b.qIn
  | .p => b.p
  | .q => b.q
  | .n => b.n
  | .l => b.l
  | .e => b.e
  | .d => b.d
  | .din => b.din
  | .dout => b.dout

/-- `HostRead(addr)` (R34): a reserved slot reads as 0. -/
def Block.hostRead {PW : Nat} (b : Block PW) (a : Addr) : Word PW :=
  match regAt a with
  | some r => b.readReg r
  | none => 0

/-- The issue of a command word (R36): BUSY with the word and the mode of CTRL, DONE and ERR cleared,
nothing else changed. -/
def Block.issue {PW : Nat} (b : Block PW) (w : Word PW) : Block PW :=
  { b with seq := .busy w b.mode, done := false, err := .noError }

/-- The one effect of a dropped write (R37). -/
def Block.setOvr {PW : Nat} (b : Block PW) : Block PW := { b with ovr := true }

/-- The write-1-to-clear of STATUS (R18): only bit 4 of the written word counts. -/
def Block.clearOvrIf {PW : Nat} (b : Block PW) (bit4 : Bool) : Block PW :=
  { b with ovr := b.ovr && !bit4 }

/-- A write that R37 drops while a command is in flight: `b'` is what the write gives otherwise. -/
def Block.unlessBusy {PW : Nat} (b b' : Block PW) : Block PW :=
  if b.busy then b.setOvr else b'

/-- `HostWrite(addr, v)` (R35, R36, R37). -/
def Block.hostWrite {PW : Nat} (b : Block PW) (a : Addr) (v : Word PW) : Block PW :=
  match regAt a with
  | some .ctrl => b.unlessBusy { b with mode := Mode.ofBit (v.getLsbD 0) }
  | some .status => b.clearOvrIf (v.getLsbD 4)
  | some .cmd => b.unlessBusy (b.issue v)
  | some .pIn => b.unlessBusy { b with pIn := v }
  | some .qIn => b.unlessBusy { b with qIn := v }
  | some .din => b.unlessBusy { b with din := v }
  | some .p => b
  | some .q => b
  | some .n => b
  | some .l => b
  | some .e => b
  | some .d => b
  | some .dout => b
  | none => b

/-- `raise Error(CODE)` at completion (R11, R103, R104): ERR, DONE and BUSY are written and nothing
else. -/
def Block.raise {PW : Nat} (b : Block PW) (c : ErrCode) : Block PW :=
  { b with err := c, done := true, seq := .idle }

/-- A completion without error (R103), after the command's own writes. -/
def Block.succeed {PW : Nat} (b : Block PW) : Block PW :=
  { b with err := .noError, done := true, seq := .idle }

/-- The completion of R103 on an outcome: `ok` holds the block with the command's writes applied. -/
def Block.finish {PW : Nat} (b : Block PW) : Except ErrCode (Block PW) → Block PW
  | .ok b' => b'.succeed
  | .error c => b.raise c

/-- What a command computes from the latched mode and the registers (R26, R103): its writes, or its
error. -/
abbrev Command := (PW : Nat) → Mode → Block PW → Except ErrCode (Block PW)

/-- The completion step (R103), enabled exactly when a command is in flight. All of its writes are
one step (R39, R104). -/
def complete (command : Command) (s : State) : Host.Outcome State Fault Refusal :=
  match s.block.seq with
  | .idle => .fault .noCommandInFlight
  | .busy _ m => .next (s.setBlock (s.block.finish (command s.params.PW m s.block)))

/-- A host access of the state (R34 to R37, R39): a read changes nothing of the block
and its value is logged; a write logs nothing. -/
def hostAccess (s : State) (t : Transaction s.params.PW) : State :=
  match t with
  | .read a => { s with readLog := (a, s.block.hostRead a) :: s.readLog }
  | .write a v => s.setBlock (s.block.hostWrite a v)

end Sys2Proof.Machine
end

