-- ==== Sys2Proof/Machine/ExtendedGcd.lean ====
section
/-! DEFINITION. The extended_gcd_unit (41_extended_gcd_unit.md) and the command GENKEY. The functions
are over the naturals, exact (R6, R8). -/

namespace Sys2Proof.Machine

/-- `gcd(a, b)` (R72), with `gcd(0, 0) = 0`. -/
def gcd (a b : Nat) : Nat := Nat.gcd a b

/-- The coprimality test of R73. -/
def coprime (a b : Nat) : Bool := decide (gcd a b = 1)

/-- The scan of R75 over `fuel` candidates from `i` on; the sentinel 2 if none qualifies. -/
def scanPublic (l : Nat) : (fuel i : Nat) → Nat
  | 0, _ => 2
  | fuel + 1, i => if coprime i l then i else scanPublic l fuel (i + 1)

/-- `find_public_exponent(l)` (R75): the first coprime of `[2, l)`. -/
def findPublicExponent (l : Nat) : Nat := scanPublic l (l - 2) 2

/-- The scan of R76 over `fuel` candidates from `i` on; the sentinel 1 if none qualifies. -/
def scanPrivate (e l : Nat) : (fuel i : Nat) → Nat
  | 0, _ => 1
  | fuel + 1, i => if (e * i) % l = 1 then i else scanPrivate e l fuel (i + 1)

/-- `find_private_exponent(e, l)` (R76) as the spec writes it: the first `i` of `[1, l)` with
`(e * i) mod l = 1`. -/
def findPrivateExponent (e l : Nat) : Nat := scanPrivate e l (l - 1) 1

/-- The extended Euclidean algorithm (R78) modulo `l`: from remainders `r0`, `r1` and cofactors `t0`,
`t1` with `t * e = r` modulo `l` for each pair, the last non-zero remainder and its cofactor. -/
def euclid (l : Nat) : (fuel r0 r1 t0 t1 : Nat) → Nat × Nat
  | 0, r0, _, t0, _ => (r0, t0)
  | fuel + 1, r0, r1, t0, t1 =>
    if r1 = 0 then (r0, t0)
    else euclid l fuel r1 (r0 % r1) t1 ((t0 + (l - (r0 / r1 * t1) % l)) % l)

/-- The value of R76 by the extended Euclidean algorithm, as R78 allows: the inverse reduced into
`[1, l)`, the sentinel 1 where there is none. -/
def privateExponent (e l : Nat) : Nat :=
  if l ≤ 1 then 1
  else
    let (g, t) := euclid l l l (e % l) 0 1
    if g = 1 then t % l else 1

/-- The writes of a successful GENKEY (R79). -/
def Block.writeKeys {PW : Nat} (b : Block PW) (e d : Nat) : Block PW :=
  { b with e := BitVec.ofNat (2 * PW) e, d := BitVec.ofNat (2 * PW) d, keyValid := true }

/-- GENKEY's computation (R79): Operation A, then Operation B with the new `e`; the degenerate
totient is refused in STRICT and keeps the sentinels in LEGACY (R80). -/
def genkeyCommand : Command := fun _ m b =>
  if b.modValid = false then .error .notConstructed
  else if m = .strict ∧ b.l.toNat ≤ 2 then .error .degenerateTotient
  else
    let e := findPublicExponent b.l.toNat
    let d := privateExponent e b.l.toNat
    .ok (b.writeKeys e d)

/-- GENKEY (R79). -/
def execGenkey (s : State) : Host.Outcome State Fault Refusal := complete genkeyCommand s

end Sys2Proof.Machine
end

