-- ==== Sys2Proof/Machine/Codec.lean ====
section
/-! DEFINITION. The character_codec (43_character_codec.md): no state of its own (R100). A character
crosses the interface as its Unicode scalar value (R95). -/

namespace Sys2Proof.Machine

/-- `valid_scalar(v)` (R96). -/
def validScalar (v : Nat) : Bool := decide (v ≤ 0x10FFFF) && !decide (0xD800 ≤ v ∧ v ≤ 0xDFFF)

/-- `char_to_codepoint(c)` (R97): the character, given as its scalar value, unchanged. -/
def charToCodepoint (c : Nat) : Nat := c

/-- `codepoint_to_char(i)` (R98): the character with scalar value `i`, or a failure. -/
def codepointToChar (i : Nat) : Option Nat := if validScalar i then some i else none

/-- The sub-unit's interface (R100): `(ok, value)`, the value unchanged. -/
def codec {PW : Nat} (v : Word PW) : Bool × Word PW := (validScalar v.toNat, v)

end Sys2Proof.Machine
end

