-- ==== Sys2Proof/Machine/Modexp.lean ====
section
/-! DEFINITION. The modexp_engine (42_modexp_engine.md) and the commands ENC and DEC. -/

namespace Sys2Proof.Machine

/-- Square-and-multiply (R85) over the bits of `x`, least significant first: `acc * b ^ x` modulo
`m`, given `fuel` bits or more. -/
def powMod (m : Nat) : (fuel b x acc : Nat) → Nat
  | 0, _, _, acc => acc
  | fuel + 1, b, x, acc =>
    if x = 0 then acc
    else powMod m fuel (b * b % m) (x / 2) (if x % 2 = 1 then acc * b % m else acc)

/-- `modexp(b, x, m) = (b ^ x) mod m` (R84) by square-and-multiply, as R85 allows. -/
def modexp (b x m : Nat) : Nat := powMod m (x.log2 + 1) (b % m) x (1 % m)

/-- The precondition checks shared by ENC and DEC, in the order of R87: the error, if any. -/
def cipherChecks {PW : Nat} (m : Mode) (b : Block PW) : Option ErrCode :=
  if b.modValid = false then some .notConstructed
  else if m = .strict ∧ b.keyValid = false then some .keyNotGenerated
  else none

/-- The write of a successful ENC or DEC (R23). -/
def Block.writeDout {PW : Nat} (b : Block PW) (v : Nat) : Block PW :=
  { b with dout := BitVec.ofNat (2 * PW) v }

/-- ENC's computation (R88). -/
def encCommand : Command := fun _ m b =>
  match cipherChecks m b with
  | some c => .error c
  | none =>
    if validScalar b.din.toNat = false then .error .invalidChar
    else
      let cp := charToCodepoint b.din.toNat
      if m = .strict ∧ cp ≥ b.n.toNat then .error .codepointOverflow
      else .ok (b.writeDout (modexp cp b.e.toNat b.n.toNat))

/-- DEC's computation (R89). Every DIN is accepted (R90). -/
def decCommand : Command := fun _ m b =>
  match cipherChecks m b with
  | some c => .error c
  | none =>
    match codepointToChar (modexp b.din.toNat b.d.toNat b.n.toNat) with
    | none => .error .invalidScalar
    | some ch => .ok (b.writeDout ch)

/-- ENC (R88). -/
def execEnc (s : State) : Host.Outcome State Fault Refusal := complete encCommand s

/-- DEC (R89). -/
def execDec (s : State) : Host.Outcome State Fault Refusal := complete decCommand s

end Sys2Proof.Machine
end

