-- ==== Sys2Proof/Machine/ModulusBuilder.lean ====
section
/-! DEFINITION. The modulus_builder (40_modulus_builder.md) and the command BUILD. -/

namespace Sys2Proof.Machine

/-- `lcm(a, b) = (a * b) div gcd(a, b)` (R64). -/
def lcm (a b : Nat) : Nat := a * b / gcd a b

/-- `build(p, q) = (n, l)` (R63). -/
def build (p q : Nat) : Nat × Nat := (p * q, lcm (p - 1) (q - 1))

/-- The writes of a successful BUILD (R68, R22): the instance, the sentinels, MOD_VALID = 1 and
KEY_VALID = 0. -/
def Block.writeInstance {PW : Nat} (b : Block PW) (n l : Nat) : Block PW :=
  { b with
    p := b.pIn
    q := b.qIn
    n := BitVec.ofNat (2 * PW) n
    l := BitVec.ofNat (2 * PW) l
    e := BitVec.ofNat (2 * PW) 2
    d := BitVec.ofNat (2 * PW) 1
    modValid := true
    keyValid := false }

/-- BUILD's computation (R68), with the admission checks of R66 in their order. -/
def buildCommand : Command := fun PW m b =>
  let p := b.pIn.toNat
  let q := b.qIn.toNat
  if p ≥ 2 ^ PW ∨ q ≥ 2 ^ PW then .error .invalidModulusInput
  else if p = 0 ∨ q = 0 then .error .invalidModulusInput
  else if p = 1 ∧ q = 1 then .error .invalidModulusInput
  else if m = .strict ∧ (p = 1 ∨ q = 1) then .error .invalidModulusInput
  else .ok (b.writeInstance (build p q).1 (build p q).2)

/-- BUILD (R68). -/
def execBuild (s : State) : Host.Outcome State Fault Refusal := complete buildCommand s

end Sys2Proof.Machine
end

