-- ==== Sys2Proof/Machine/Turns.lean ====
section
/-! DEFINITION. The turns of the two agents of R41 and of the platform (R117), which `step` calls:
everything a step does stands here. -/

namespace Sys2Proof.Machine

/-- The completion of a word that decodes to no command (R50, R51, R104): ERR = ILLEGAL_COMMAND and no
other effect. -/
def illegalCompletion (s : State) : State := s.setBlock (s.block.raise .illegalCommand)

/-- The sequencer's turn (R103): it decodes the latched word (R50) and completes the command. In IDLE
it has no step (R25) and nothing changes. -/
def sequencerTurn (s : State) : Host.Outcome State Fault Refusal :=
  match s.block.seq with
  | .idle => .next s
  | .busy w _ =>
    match decode w with
    | .ok i => exec i s
    | .error _ => .next (illegalCompletion s)

/-- One round of the loop of `wait` (R54): the host reads STATUS, and the loop stays first in the
program while bit 0 of the value is 1. `ops` is what follows the loop. -/
def pollRound (s : State) (ops : List (HostOp s.params.PW)) : State :=
  hostAccess
    (s.setProgram (if (s.block.hostRead (slotOf .status)).getLsbD 0 then s.program else ops))
    (.read (slotOf .status))

/-- The host's turn (R41): the next access of its program. With no program left it does nothing, and
an idle block waits (R119). -/
def hostTurn (s : State) : State :=
  match s.program with
  | [] => s
  | .access t :: ops => hostAccess (s.setProgram ops) t
  | .poll :: ops => pollRound s ops

/-- The reset of R118: every register takes its reset value and a command in flight is abandoned. What
the host does next and what it has read are no state of the block (log entry 12). -/
def resetTurn (s : State) : State := s.setBlock (Block.reset s.params.PW)

/-- Who takes the next step: the schedule's first turn. With no turn left a command in flight completes
(the weak fairness of R126), and otherwise the host goes on (log entry 2). -/
def State.nextTurn (s : State) : Turn :=
  match s.schedule with
  | t :: _ => t
  | [] => if s.block.busy then .sequencer else .host

/-- A turn, after it has been taken off the schedule. -/
def takeTurn (s : State) : Turn → Host.Outcome State Fault Refusal
  | .host => .next (hostTurn s)
  | .sequencer => sequencerTurn s
  | .reset => .next (resetTurn s)

/-- The word that the next step completes, put in flight as an issue does (R36); it gets the next
turn. -/
def fetchable (s : State) (w : Word s.params.PW) : State :=
  { s with
    block := s.block.issue w
    schedule := if s.schedule.isEmpty then s.schedule else .sequencer :: s.schedule }

end Sys2Proof.Machine
end

