-- ==== Sys2Proof/Machine/Step.lean ====
section
/-! DEFINITION. One step of the machine: a turn of the host, of the sequencer or of the platform. The
sequence of turns is the total order of R41. -/

namespace Sys2Proof.Machine

/-- One step (R41). -/
def step (s : State) : Host.Outcome State Fault Refusal :=
  takeTurn (s.setSchedule s.schedule.tail) s.nextTurn

/-- The state with a command word where the next step takes its command: in flight, as the host's
write to CMD puts it there (R36), with the sequencer's turn next. The block fetches nothing (R43,
R119): this stands for the host's issue (log entry 3). A word with a bit above `RW` is cut to `RW`
bits. -/
def State.withFetchWord (s : State) (nbits w : Nat) : State :=
  fetchable s (BitVec.ofNat (2 * s.params.PW) (w % 2 ^ nbits))

end Sys2Proof.Machine
end

