-- ==== Sys2Proof/Machine/HostProgram.lean ====
section
/-! DEFINITION. The expansions of host program lines (R53, R54), the results the host takes from its
reads (R54, R92), and the listing format of transactions (R45). -/

namespace Sys2Proof.Machine

/-- `wr REG, value` (R53): a host write of a value to a register. -/
def opWrite (PW : Nat) (r : Reg) (v : Value) : HostOp PW :=
  .access (.write (slotOf r) (BitVec.ofNat (2 * PW) v.toNat))

/-- `rd REG` (R53): a host read of a register. -/
def opRead (PW : Nat) (r : Reg) : HostOp PW := .access (.read (slotOf r))

/-- `cmd MNEMONIC` (R53, R54): a write of the command word to CMD. -/
def opCmd (PW : Nat) (i : Instr) : HostOp PW := .access (.write (slotOf .cmd) (encode PW i))

/-- One element of a sequence operation (R54): operand, command, `wait`, STATUS, DOUT. -/
def opsElement (PW : Nat) (i : Instr) (v : Value) : List (HostOp PW) :=
  [opWrite PW .din v, opCmd PW i, .poll, opRead PW .status, opRead PW .dout]

/-- The expansion of a line (R53, R54). -/
def expand (PW : Nat) : Line → List (HostOp PW)
  | .wr r v => [opWrite PW r v]
  | .rd r => [opRead PW r]
  | .cmd i => [opCmd PW i]
  | .wait => [.poll]
  | .construct p q => [opWrite PW .pIn p, opWrite PW .qIn q, opCmd PW .build, .poll]
  | .generateKey => [opCmd PW .genkey, .poll]
  | .getKey => [opRead PW .e, opRead PW .d, opRead PW .n]
  | .enc1 c => opsElement PW .enc c
  | .dec1 v => opsElement PW .dec v
  | .encrypt cs => cs.flatMap (opsElement PW .enc)
  | .decrypt vs => vs.flatMap (opsElement PW .dec)

/-- A host program (R53). -/
def assemble (PW : Nat) (lines : List Line) : List (HostOp PW) := lines.flatMap (expand PW)

/-- STATUS.ERR of a value that a read of STATUS returned (R18). -/
def statusErr {PW : Nat} (st : Word PW) : BitVec 4 := st.extractLsb' 8 4

/-- The results of the elements of a sequence operation, from the host's reads, oldest first (R54): a
read of STATUS and then of DOUT gives DOUT, valid only when that STATUS has ERR = 0. -/
def elementResults {PW : Nat} : List (Addr × Word PW) → List (Option Nat)
  | [] => []
  | [_] => []
  | r :: r' :: rs =>
    if r.1 = slotOf .status ∧ r'.1 = slotOf .dout then
      (if statusErr r.2 = 0 then some r'.2.toNat else none) :: elementResults (r' :: rs)
    else elementResults (r' :: rs)

/-- The result of a sequence operation (R54, R92): the elements' results in input order, or the place of
the first element at which it has failed. -/
def sequenceResult : List (Option Nat) → Except Nat (List Nat)
  | [] => .ok []
  | none :: _ => .error 0
  | some v :: rest =>
    match sequenceResult rest with
    | .ok vs => .ok (v :: vs)
    | .error k => .error (k + 1)

/-- The upper-case hex digit of a number below 16. -/
def hexDigit (n : Nat) : Char :=
  if n < 10 then Char.ofNat (48 + n) else Char.ofNat (55 + n)

/-- The lowest `k` hex digits of a number, most significant first. -/
def hexDigits : (k n : Nat) → List Char
  | 0, _ => []
  | k + 1, n => hexDigits k (n / 16) ++ [hexDigit (n % 16)]

/-- A transaction as a listing writes it (R45): the slot in one hex digit, the value in `RW/4`
(rounded up, log entry 6). -/
def listing {PW : Nat} : Transaction PW → List Char
  | .read a => ['R', ' '] ++ hexDigits 1 a.toNat
  | .write a v => ['W', ' '] ++ hexDigits 1 a.toNat ++ [' '] ++ hexDigits ((2 * PW + 3) / 4) v.toNat

end Sys2Proof.Machine
end

