-- ==== Sys2Proof/Safety.lean ====
section
/-! DEFINITION. What counts as a safe run, in the terms the statements use: the invariant of R30 with
the status relations of R18 and R24, the admission of R66, the checks of ENC and DEC (R87 to R89), the
steps that complete a command (R103), the host's protocol (R122), what a program comes to (R54) and the end of a
run (R128). -/

namespace Sys2Proof.Machine

/-- The operands BUILD accepts with latched mode `m` (R66). -/
def Admitted (PW : Nat) (m : Mode) (p q : Nat) : Prop :=
  p < 2 ^ PW ∧ q < 2 ^ PW ∧ 1 ≤ p ∧ 1 ≤ q ∧ ¬(p = 1 ∧ q = 1) ∧ (m = .strict → p ≠ 1 ∧ q ≠ 1)

/-- A Unicode scalar value, as the two ranges of R96. -/
def IsScalar (v : Nat) : Prop := v ≤ 0xD7FF ∨ (0xE000 ≤ v ∧ v ≤ 0x10FFFF)

/-- ENC and DEC pass the checks of R87. -/
def CipherReady {PW : Nat} (m : Mode) (b : Block PW) : Prop :=
  b.modValid = true ∧ (m = .strict → b.keyValid = true)

/-- ENC of the value `v` with latched mode `m` ends without error (R87, R88). -/
def EncPasses {PW : Nat} (m : Mode) (b : Block PW) (v : Nat) : Prop :=
  CipherReady m b ∧ IsScalar v ∧ (m = .strict → v < b.n.toNat)

/-- DEC of the value `v` with latched mode `m` ends without error (R87, R89). -/
def DecPasses {PW : Nat} (m : Mode) (b : Block PW) (v : Nat) : Prop :=
  CipherReady m b ∧ IsScalar (v ^ b.d.toNat % b.n.toNat)

/-- The next step of `s` is a turn of the sequencer. -/
def SequencerNext (s : State) : Prop := s.nextTurn = .sequencer

/-- The next step of `s` is a turn of the host, which makes the transaction `t` and goes on with `ops`;
a round of `wait` is no such step. -/
def AccessNext (s : State) (t : Transaction s.params.PW) (ops : List (HostOp s.params.PW)) : Prop :=
  s.nextTurn = .host ∧ s.program = .access t :: ops

/-- The next step of `s` is a host write to slot `a`. -/
def WriteNext (s : State) (a : Addr) : Prop := ∃ v ops, AccessNext s (.write a v) ops

/-- The next step of `s` completes the command `i` (R103). -/
def Completes (s : State) (i : Instr) : Prop :=
  SequencerNext s ∧ ∃ w m, s.block.seq = .busy w m ∧ decode w = .ok i

/-- The next step of `s` is a reset (R117). -/
def ResetNext (s : State) : Prop := s.nextTurn = .reset

/-- The instance a successful BUILD has left (R30, R24). -/
structure InstanceInv {PW : Nat} (b : Block PW) : Prop where
  n_ge : 2 ≤ b.n.toNat
  n_eq : b.n.toNat = b.p.toNat * b.q.toNat
  l_eq : b.l.toNat = Nat.lcm (b.p.toNat - 1) (b.q.toNat - 1)
  p_ge : 1 ≤ b.p.toNat
  p_lt : b.p.toNat < 2 ^ PW
  q_ge : 1 ≤ b.q.toNat
  q_lt : b.q.toNat < 2 ^ PW
  not_both_one : ¬(b.p.toNat = 1 ∧ b.q.toNat = 1)
  sentinels : b.keyValid = false → b.e.toNat = 2 ∧ b.d.toNat = 1
  keys : b.keyValid = true →
    b.e.toNat = findPublicExponent b.l.toNat ∧
      b.d.toNat = findPrivateExponent b.e.toNat b.l.toNat

/-- Before any successful BUILD no instance exists and the registers that only commands write still
hold their reset values (R24, R21, R22, R23, R29). -/
structure NoInstanceInv {PW : Nat} (b : Block PW) : Prop where
  keyValid : b.keyValid = false
  p : b.p = 0
  q : b.q = 0
  n : b.n = 0
  l : b.l = 0
  e : b.e = 0
  d : b.d = 0
  dout : b.dout = 0

/-- The invariant of the block: the instance's (R30), and of STATUS that a command in flight shows
neither DONE nor an error, and that an error shows only with DONE (R18, R36, R103). -/
structure Block.Inv {PW : Nat} (b : Block PW) : Prop where
  instance_built : b.modValid = true → InstanceInv b
  no_instance : b.modValid = false → NoInstanceInv b
  busy_clear : b.busy = true → b.done = false ∧ b.err = .noError
  err_done : b.err ≠ .noError → b.done = true

/-- The invariant of the machine. -/
def State.Inv (s : State) : Prop := s.block.Inv

/-- The slots whose writes R37 drops while a command is in flight. -/
def Guarded (a : Addr) : Prop := a = 0x0 ∨ a = 0x2 ∨ a = 0x3 ∨ a = 0x4 ∨ a = 0xB

/-- The next step of `s` drops a host write: the host breaks the rule of R122. -/
def DropsWrite (s : State) : Prop :=
  s.block.busy = true ∧ ∃ a, Guarded a ∧ WriteNext s a

/-- `s` with the host about to perform a program, and then `later` reads of STATUS that are no part of
the program (R128). -/
def State.withProgram (s : State) (lines : List Line) (later : Nat) : State :=
  s.setProgram (assemble s.params.PW lines ++
    List.replicate later (.access (.read (slotOf .status))))

/-- `v` is where the run of a program has just performed the program's last transaction: the first state
in which only the `later` reads are left (R128). -/
def ProgramPerformed (s : State) (lines : List Line) (later : Nat) (v : State) : Prop :=
  ∃ j, Host.Core.run Sys2Proof.core j (s.withProgram lines later) = .next v ∧
    v.program.length ≤ later ∧
    ∀ i < j, ∀ x, Host.Core.run Sys2Proof.core i (s.withProgram lines later) = .next x →
      later < x.program.length

/-- The step from `u` to `t` is a host read of STATUS that returns BUSY = 0 (R128). -/
structure IdleRead (u t : State) : Prop where
  reads : ∃ ops, AccessNext u (.read (slotOf .status)) ops
  step_eq : step u = .next t
  idle : (u.block.hostRead (slotOf .status)).getLsbD 0 = false

/-- The run from `s` of a program, with `later` reads of STATUS after it, ends in `t` (R128): when the last
transaction has been performed no command is in flight, since "a program that ends with BUSY = 1 has no
end state", and the first later read that returns BUSY = 0 gives `t`. The end state is the register
contents of `t.block`. -/
def RunEndsIn (s : State) (lines : List Line) (later : Nat) (t : State) : Prop :=
  ∃ v, ProgramPerformed s lines later v ∧ v.block.busy = false ∧
    ∃ k u, Host.Core.run Sys2Proof.core k v = .next u ∧ IdleRead u t ∧
      ∀ j < k, ∀ u' t', Host.Core.run Sys2Proof.core j v = .next u' → ¬IdleRead u' t'

/-- The run from `s` comes to where the host goes on with `ops`, the block is `b`, and the host has made
the reads `reads` on the way, oldest first. Only the schedule is left open. -/
def Performs (s : State) (ops : List (HostOp s.params.PW)) (b : Block s.params.PW)
    (reads : List (Addr × Word s.params.PW)) : Prop :=
  ∃ k ts, Host.Core.run Sys2Proof.core k s = .next ({ s with
    schedule := ts
    program := ops
    block := b
    readLog := reads.reverse ++ s.readLog } : State)

/-- A run is safe when it neither faults nor is refused, for any number of steps. -/
def SafeRun (s : State) : Prop := ∀ k, ∃ t, Host.Core.run Sys2Proof.core k s = .next t

end Sys2Proof.Machine
end

