-- ==== Sys2Proof/Certificates/Slice0/Obligations.lean ====
section
/-! DEFINITION. The statements for the provers, each formalising rules of spec/ that its docstring
names. -/

open Sys2Proof Sys2Proof.Machine

/-! ### BUILD -/

/-- R68, R63, R64: an admitted BUILD in flight completes with P, Q, N = p * q, L = lcm(p-1, q-1), the
sentinels E = 2 and D = 1, MOD_VALID = 1, KEY_VALID = 0, ERR = 0, DONE = 1, and IDLE; every other
register, the host's program, the schedule and the host's reads are unchanged. -/
def Obligations.BuildConstructsInstance : Prop :=
  ∀ (s : State) (w : Word s.params.PW) (m : Mode),
    s.block.seq = .busy w m →
    Admitted s.params.PW m s.block.pIn.toNat s.block.qIn.toNat →
    exec .build s = .next (s.setBlock { s.block with
      p := s.block.pIn
      q := s.block.qIn
      n := BitVec.ofNat _ (s.block.pIn.toNat * s.block.qIn.toNat)
      l := BitVec.ofNat _ (Nat.lcm (s.block.pIn.toNat - 1) (s.block.qIn.toNat - 1))
      e := BitVec.ofNat _ 2
      d := BitVec.ofNat _ 1
      modValid := true
      keyValid := false
      err := .noError
      done := true
      seq := .idle })

/-- R6, R69: no result of an admitted BUILD is truncated: N and L are exactly p * q and
lcm(p-1, q-1), with 2 ≤ N. -/
def Obligations.BuildResultsAreExact : Prop :=
  ∀ (s : State) (w : Word s.params.PW) (m : Mode),
    s.block.seq = .busy w m →
    Admitted s.params.PW m s.block.pIn.toNat s.block.qIn.toNat →
    ∃ t, exec .build s = .next t ∧
      t.block.n.toNat = s.block.pIn.toNat * s.block.qIn.toNat ∧
      t.block.l.toNat = Nat.lcm (s.block.pIn.toNat - 1) (s.block.qIn.toNat - 1) ∧
      2 ≤ t.block.n.toNat ∧ t.block.e.toNat = 2 ∧ t.block.d.toNat = 1

/-- R69: after an admitted BUILD, 2 ≤ N; L = 0 exactly when one of p, q is 1, which happens only in
LEGACY; and L ≤ 2 exactly when L = 0 or both of p, q lie in {2, 3}. (N and L are below `2^RW` by their
type.) -/
def Obligations.BuildDegenerateExactly : Prop :=
  ∀ (s : State) (w : Word s.params.PW) (m : Mode),
    s.block.seq = .busy w m →
    Admitted s.params.PW m s.block.pIn.toNat s.block.qIn.toNat →
    ∃ t, exec .build s = .next t ∧
      2 ≤ t.block.n.toNat ∧
      (t.block.l.toNat = 0 ↔ s.block.pIn.toNat = 1 ∨ s.block.qIn.toNat = 1) ∧
      (t.block.l.toNat = 0 → m = .legacy) ∧
      (t.block.l.toNat ≤ 2 ↔ t.block.l.toNat = 0 ∨
        ((s.block.pIn.toNat = 2 ∨ s.block.pIn.toNat = 3) ∧
          (s.block.qIn.toNat = 2 ∨ s.block.qIn.toNat = 3)))

/-- R66: a BUILD in flight whose operands are not admitted completes with INVALID_MODULUS_INPUT and
writes nothing but ERR, DONE and BUSY. -/
def Obligations.BuildRefusesInadmissible : Prop :=
  ∀ (s : State) (w : Word s.params.PW) (m : Mode),
    s.block.seq = .busy w m →
    (s.block.pIn.toNat ≥ 2 ^ s.params.PW ∨ s.block.qIn.toNat ≥ 2 ^ s.params.PW ∨
      s.block.pIn.toNat = 0 ∨ s.block.qIn.toNat = 0 ∨
      (s.block.pIn.toNat = 1 ∧ s.block.qIn.toNat = 1) ∨
      (m = .strict ∧ (s.block.pIn.toNat = 1 ∨ s.block.qIn.toNat = 1))) →
    exec .build s = .next (s.setBlock { s.block with
      err := .invalidModulusInput
      done := true
      seq := .idle })

/-! ### GENKEY -/

/-- R79: with an instance, and not in STRICT with L ≤ 2, a GENKEY in flight completes with
E = find_public_exponent(L) and D = find_private_exponent(E, L), the searches of R75 and R76 as the
spec writes them, KEY_VALID = 1, ERR = 0, DONE = 1, and IDLE; nothing else changes. -/
def Obligations.GenkeyWritesSearchedKeys : Prop :=
  ∀ (s : State) (w : Word s.params.PW) (m : Mode),
    s.block.seq = .busy w m →
    s.block.modValid = true →
    (m = .strict → 3 ≤ s.block.l.toNat) →
    exec .genkey s = .next (s.setBlock { s.block with
      e := BitVec.ofNat _ (findPublicExponent s.block.l.toNat)
      d := BitVec.ofNat _
        (findPrivateExponent (findPublicExponent s.block.l.toNat) s.block.l.toNat)
      keyValid := true
      err := .noError
      done := true
      seq := .idle })

/-- R79, R105: a GENKEY in flight without an instance completes with NOT_CONSTRUCTED in both modes, and
one in STRICT with an instance and L ≤ 2 with DEGENERATE_TOTIENT; E, D and KEY_VALID keep their
values. -/
def Obligations.GenkeyErrorsInOrder : Prop :=
  ∀ (s : State) (w : Word s.params.PW) (m : Mode),
    s.block.seq = .busy w m →
    (s.block.modValid = false →
      exec .genkey s = .next (s.setBlock { s.block with
        err := .notConstructed
        done := true
        seq := .idle })) ∧
    (s.block.modValid = true → m = .strict → s.block.l.toNat ≤ 2 →
      exec .genkey s = .next (s.setBlock { s.block with
        err := .degenerateTotient
        done := true
        seq := .idle }))

/-- R80: a GENKEY in flight in LEGACY on a degenerate totient completes without error with the
sentinels E = 2 and D = 1 and KEY_VALID = 1. -/
def Obligations.GenkeyLegacyKeepsSentinels : Prop :=
  ∀ (s : State) (w : Word s.params.PW),
    s.block.seq = .busy w .legacy →
    s.block.modValid = true →
    s.block.l.toNat ≤ 2 →
    exec .genkey s = .next (s.setBlock { s.block with
      e := BitVec.ofNat _ 2
      d := BitVec.ofNat _ 1
      keyValid := true
      err := .noError
      done := true
      seq := .idle })

/-- R82: a second GENKEY on the same instance in the same mode ends in the same state as the first: it
stands in flight at the block that its issue gives (DONE and ERR cleared, R36), whatever the first one
ended with. -/
def Obligations.GenkeyIsIdempotent : Prop :=
  ∀ (s : State) (w w' : Word s.params.PW) (m : Mode) (b : Block s.params.PW),
    s.block.seq = .busy w m →
    exec .genkey s = .next (s.setBlock b) →
    exec .genkey (s.setBlock { b with
      seq := .busy w' m
      done := false
      err := .noError }) = .next (s.setBlock b)

/-- R75: find_public_exponent(l) is the smallest i with 2 ≤ i < l and gcd(i, l) = 1, and the sentinel 2
when there is none, which is so exactly when l ≤ 2. -/
def Obligations.PublicExponentIsSmallestCoprime : Prop :=
  ∀ l : Nat,
    (l ≤ 2 → findPublicExponent l = 2 ∧ ¬∃ i, 2 ≤ i ∧ i < l ∧ Nat.gcd i l = 1) ∧
    (3 ≤ l → 2 ≤ findPublicExponent l ∧ findPublicExponent l < l ∧
      Nat.gcd (findPublicExponent l) l = 1 ∧
      ∀ i, 2 ≤ i → i < l → Nat.gcd i l = 1 → findPublicExponent l ≤ i)

/-- R76: find_private_exponent(e, l) is the smallest i with 1 ≤ i < l and (e * i) mod l = 1, and the
sentinel 1 when there is none. -/
def Obligations.PrivateExponentIsSmallestInverse : Prop :=
  ∀ e l : Nat,
    ((∃ i, 1 ≤ i ∧ i < l ∧ e * i % l = 1) →
      1 ≤ findPrivateExponent e l ∧ findPrivateExponent e l < l ∧
        e * findPrivateExponent e l % l = 1 ∧
        ∀ i, 1 ≤ i → i < l → e * i % l = 1 → findPrivateExponent e l ≤ i) ∧
    ((¬∃ i, 1 ≤ i ∧ i < l ∧ e * i % l = 1) → findPrivateExponent e l = 1)

/-- R77: for l ≥ 3 the public exponent e found has 2 ≤ e < l and gcd(e, l) = 1, and the private exponent
for it is the unique d in [0, l) with (e * d) mod l = 1, and is not 0; for l ≤ 2 the results are the
sentinels 2 and 1. -/
def Obligations.ExponentsExistAndInverseIsUnique : Prop :=
  ∀ l : Nat,
    (3 ≤ l →
      2 ≤ findPublicExponent l ∧ findPublicExponent l < l ∧
      Nat.gcd (findPublicExponent l) l = 1 ∧
      1 ≤ findPrivateExponent (findPublicExponent l) l ∧
      findPrivateExponent (findPublicExponent l) l < l ∧
      findPublicExponent l * findPrivateExponent (findPublicExponent l) l % l = 1 ∧
      ∀ d, d < l → findPublicExponent l * d % l = 1 →
        d = findPrivateExponent (findPublicExponent l) l) ∧
    (l ≤ 2 → findPublicExponent l = 2 ∧ findPrivateExponent (findPublicExponent l) l = 1)

/-- R78: the extended Euclidean algorithm the model runs gives, for every e and l, the value of the
search of R76. -/
def Obligations.EuclidGivesSearchedInverse : Prop :=
  ∀ e l : Nat, privateExponent e l = findPrivateExponent e l

/-! ### ENC and DEC -/

/-- R84, R85: the engine's square-and-multiply gives (b ^ x) mod m for every b, x and m ≥ 1. -/
def Obligations.EngineGivesPowerModulo : Prop :=
  ∀ b x m : Nat, 1 ≤ m → modexp b x m = b ^ x % m

/-- R88: with the checks of R87 passed, a scalar value in DIN and, in STRICT, DIN < N, an ENC in flight
completes with DOUT = DIN ^ E mod N, ERR = 0, DONE = 1, and IDLE; nothing else changes. (For N = 0,
which R30 excludes, the value is the model's choice of log entry 8.) -/
def Obligations.EncWritesCiphertext : Prop :=
  ∀ (s : State) (w : Word s.params.PW) (m : Mode),
    s.block.seq = .busy w m →
    CipherReady m s.block →
    IsScalar s.block.din.toNat →
    (m = .strict → s.block.din.toNat < s.block.n.toNat) →
    exec .enc s = .next (s.setBlock { s.block with
      dout := BitVec.ofNat _ (s.block.din.toNat ^ s.block.e.toNat % s.block.n.toNat)
      err := .noError
      done := true
      seq := .idle })

/-- R87, R88, R105: the errors of an ENC in flight in their order: NOT_CONSTRUCTED, then
KEY_NOT_GENERATED (STRICT), then INVALID_CHAR, then CODEPOINT_OVERFLOW (STRICT). Each writes only ERR,
DONE and BUSY, so DOUT keeps its value. -/
def Obligations.EncErrorsInOrder : Prop :=
  ∀ (s : State) (w : Word s.params.PW) (m : Mode),
    s.block.seq = .busy w m →
    (s.block.modValid = false →
      exec .enc s = .next (s.setBlock { s.block with
        err := .notConstructed
        done := true
        seq := .idle })) ∧
    (s.block.modValid = true → m = .strict → s.block.keyValid = false →
      exec .enc s = .next (s.setBlock { s.block with
        err := .keyNotGenerated
        done := true
        seq := .idle })) ∧
    (CipherReady m s.block → ¬IsScalar s.block.din.toNat →
      exec .enc s = .next (s.setBlock { s.block with
        err := .invalidChar
        done := true
        seq := .idle })) ∧
    (CipherReady m s.block → IsScalar s.block.din.toNat → m = .strict →
      s.block.n.toNat ≤ s.block.din.toNat →
      exec .enc s = .next (s.setBlock { s.block with
        err := .codepointOverflow
        done := true
        seq := .idle }))

/-- R89, R90: with the checks of R87 passed, and for every value in DIN whose decryption
DIN ^ D mod N is a scalar value, a DEC in flight completes with DOUT = DIN ^ D mod N, ERR = 0,
DONE = 1, and IDLE; nothing else changes. (For N = 0, which R30 excludes, the value is the model's
choice of log entry 8.) -/
def Obligations.DecWritesCharacter : Prop :=
  ∀ (s : State) (w : Word s.params.PW) (m : Mode),
    s.block.seq = .busy w m →
    CipherReady m s.block →
    IsScalar (s.block.din.toNat ^ s.block.d.toNat % s.block.n.toNat) →
    exec .dec s = .next (s.setBlock { s.block with
      dout := BitVec.ofNat _ (s.block.din.toNat ^ s.block.d.toNat % s.block.n.toNat)
      err := .noError
      done := true
      seq := .idle })

/-- R87, R89, R105: the errors of a DEC in flight in their order: NOT_CONSTRUCTED, then
KEY_NOT_GENERATED (STRICT), then INVALID_SCALAR when the decrypted value is no scalar value. Each
writes only ERR, DONE and BUSY. (For N = 0, which R30 excludes, the value is the model's choice of log
entry 8.) -/
def Obligations.DecErrorsInOrder : Prop :=
  ∀ (s : State) (w : Word s.params.PW) (m : Mode),
    s.block.seq = .busy w m →
    (s.block.modValid = false →
      exec .dec s = .next (s.setBlock { s.block with
        err := .notConstructed
        done := true
        seq := .idle })) ∧
    (s.block.modValid = true → m = .strict → s.block.keyValid = false →
      exec .dec s = .next (s.setBlock { s.block with
        err := .keyNotGenerated
        done := true
        seq := .idle })) ∧
    (CipherReady m s.block →
      ¬IsScalar (s.block.din.toNat ^ s.block.d.toNat % s.block.n.toNat) →
      exec .dec s = .next (s.setBlock { s.block with
        err := .invalidScalar
        done := true
        seq := .idle }))

/-- R91: after an ENC or DEC in flight that completes without error, DOUT < N (N ≥ 2 whenever an
instance exists, R30), and after such a DEC, DOUT is a scalar value. -/
def Obligations.CipherOutputInRange : Prop :=
  ∀ (i : Instr) (s t : State), i = .enc ∨ i = .dec →
    s.Inv → exec i s = .next t → t.block.err = .noError →
    t.block.dout.toNat < t.block.n.toNat ∧ (i = .dec → IsScalar t.block.dout.toNat)

/-- R93: for an instance of distinct primes with L ≥ 3 that GENKEY has keyed, ENC of a scalar value
c < N followed by DEC of the resulting DOUT gives DOUT = c, in either mode. -/
def Obligations.DecryptionInvertsEncryption : Prop :=
  ∀ (s : State) (w w' : Word s.params.PW) (m m' : Mode),
    s.Inv → s.block.modValid = true → s.block.keyValid = true →
    Nat.Prime s.block.p.toNat → Nat.Prime s.block.q.toNat →
    s.block.p.toNat ≠ s.block.q.toNat → 3 ≤ s.block.l.toNat →
    IsScalar s.block.din.toNat → s.block.din.toNat < s.block.n.toNat →
    ∃ c : Word s.params.PW,
      exec .enc (s.setBlock { s.block with seq := .busy w m }) = .next (s.setBlock { s.block with
        dout := c
        err := .noError
        done := true
        seq := .idle }) ∧
      exec .dec (s.setBlock { s.block with din := c, dout := c, seq := .busy w' m' }) =
        .next (s.setBlock { s.block with
          din := c
          dout := s.block.din
          err := .noError
          done := true
          seq := .idle })

/-- R96: valid_scalar(v) is true exactly when v ≤ 0x10FFFF and v is not in [0xD800, 0xDFFF], that is,
when v lies in [0x0000, 0xD7FF] or in [0xE000, 0x10FFFF]. -/
def Obligations.ValidScalarRange : Prop :=
  ∀ v : Nat,
    (validScalar v = true ↔ v ≤ 0x10FFFF ∧ ¬(0xD800 ≤ v ∧ v ≤ 0xDFFF)) ∧
    (validScalar v = true ↔ v ≤ 0xD7FF ∨ (0xE000 ≤ v ∧ v ≤ 0x10FFFF))

/-- R97, R98: the codec gives every scalar value back unchanged in both directions, and
codepoint_to_char fails on every other value. -/
def Obligations.CodecMapsScalarsToThemselves : Prop :=
  ∀ v : Nat, (IsScalar v → codepointToChar v = some v ∧ charToCodepoint v = v) ∧
    (¬IsScalar v → codepointToChar v = none)

/-! ### Commands together: frames and errors -/

/-- R31, R48, R104: what a command's completion leaves unchanged. Every command keeps the parameter,
the host's program, the schedule, the host's reads, MODE, OVR, P_IN, Q_IN and DIN; BUILD and GENKEY keep DOUT;
GENKEY, ENC and DEC keep P, Q, N, L and MOD_VALID; ENC and DEC keep E, D and KEY_VALID. -/
def Obligations.CommandsKeepTheirFrame : Prop :=
  ∀ (i : Instr) (s t : State), exec i s = .next t →
    ∃ b : Block s.params.PW, t = s.setBlock b ∧
      b.mode = s.block.mode ∧ b.ovr = s.block.ovr ∧
      b.pIn = s.block.pIn ∧ b.qIn = s.block.qIn ∧ b.din = s.block.din ∧
      ((i = .build ∨ i = .genkey) → b.dout = s.block.dout) ∧
      ((i = .genkey ∨ i = .enc ∨ i = .dec) →
        b.p = s.block.p ∧ b.q = s.block.q ∧ b.n = s.block.n ∧ b.l = s.block.l ∧
          b.modValid = s.block.modValid) ∧
      ((i = .enc ∨ i = .dec) →
        b.e = s.block.e ∧ b.d = s.block.d ∧ b.keyValid = s.block.keyValid)

/-- R104: a command that completes with ERR ≠ 0 leaves exactly the state from before, apart from
STATUS.ERR, STATUS.DONE and the sequencer (STATUS.BUSY). -/
def Obligations.FailedCommandWritesOnlyStatus : Prop :=
  ∀ (i : Instr) (s t : State), exec i s = .next t → t.block.err ≠ .noError →
    ∃ c : ErrCode, t = s.setBlock { s.block with err := c, done := true, seq := .idle }

/-- R103: every completion, with or without an error, ends IDLE with DONE = 1, and a command has a
completion exactly when one is in flight: in IDLE, where the completion is not enabled, the meaning
stops by the name the model gives that (log entry 5). -/
def Obligations.CompletionEnabledExactlyWhenBusy : Prop :=
  ∀ (i : Instr) (s : State),
    (s.block.busy = true → ∃ t, exec i s = .next t ∧ t.block.busy = false ∧ t.block.done = true) ∧
    (s.block.busy = false → exec i s = .fault .noCommandInFlight)

/-- R101: the error codes each command can end with. -/
def Obligations.CommandsRaiseOnlyTheirErrors : Prop :=
  ∀ (s t : State),
    (exec .build s = .next t →
      t.block.err = .noError ∨ t.block.err = .invalidModulusInput) ∧
    (exec .genkey s = .next t →
      t.block.err = .noError ∨ t.block.err = .notConstructed ∨
        t.block.err = .degenerateTotient) ∧
    (exec .enc s = .next t →
      t.block.err = .noError ∨ t.block.err = .notConstructed ∨
        t.block.err = .keyNotGenerated ∨ t.block.err = .invalidChar ∨
        t.block.err = .codepointOverflow) ∧
    (exec .dec s = .next t →
      t.block.err = .noError ∨ t.block.err = .notConstructed ∨
        t.block.err = .keyNotGenerated ∨ t.block.err = .invalidScalar)

/-- R108: a command latched in LEGACY never ends with KEY_NOT_GENERATED, DEGENERATE_TOTIENT or
CODEPOINT_OVERFLOW. -/
def Obligations.LegacySilencesModeErrors : Prop :=
  ∀ (i : Instr) (s t : State) (w : Word s.params.PW),
    s.block.seq = .busy w .legacy → exec i s = .next t →
    t.block.err ≠ .keyNotGenerated ∧ t.block.err ≠ .degenerateTotient ∧
      t.block.err ≠ .codepointOverflow

/-! ### Decoding -/

/-- R50, R51, R47: a word decodes to a command exactly when it is that command's word, at every width:
decoding an encoded command gives it back, and no reserved word decodes to any command. -/
def Obligations.DecodeAndEncodeAgree : Prop :=
  ∀ (c : Config.Params) (w : Word c.PW) (i : Instr), decode w = .ok i ↔ w = encode c.PW i

/-- R50, R46: why a word is rejected: a set RSV bit before an unassigned OPC. -/
def Obligations.ReservedWordsRejectedByName : Prop :=
  ∀ (c : Config.Params) (w : Word c.PW),
    (decode w = .error .reservedBits ↔ 256 ≤ w.toNat) ∧
    (decode w = .error .reservedOpcode ↔ w.toNat < 256 ∧ (w.toNat = 0 ∨ 5 ≤ w.toNat))

/-- R47, R51: the words the spec writes out, at the reference width. -/
def Obligations.SpecWordsDecode : Prop :=
  decodeTableWord 64 0x0000000000000001 = some .build ∧
  decodeTableWord 64 0x0000000000000002 = some .genkey ∧
  decodeTableWord 64 0x0000000000000003 = some .enc ∧
  decodeTableWord 64 0x0000000000000004 = some .dec ∧
  decodeTableWord 64 0x0000000000000000 = none ∧
  decodeTableWord 64 0x0000000000000005 = none ∧
  decodeTableWord 64 0x00000000000000FF = none ∧
  decodeTableWord 64 0x0000000000000101 = none ∧
  decodeTableWord 64 0x8000000000000003 = none

/-! ### Steps -/

/-- R103, R50: when the sequencer has the turn and the latched word decodes to a command, the step is
that command's meaning, at the state from which the turn has been taken off the schedule. (That turns
come from a schedule, and that the sequencer has the turn when none is left, is the model's choice of
log entry 2.) -/
def Obligations.StepRunsDecodedCommand : Prop :=
  ∀ (s : State) (w : Word s.params.PW) (m : Mode) (i : Instr),
    s.block.seq = .busy w m → decode w = .ok i → i.wellFormed = true → SequencerNext s →
    step s = exec i (s.setSchedule s.schedule.tail)

/-- R50, R51, R104: when the sequencer has the turn and the latched word is no command's, the command
completes with ILLEGAL_COMMAND and no other effect than ERR, DONE and BUSY. (The turn is taken off the
schedule, and the sequencer has it when none is left, by the model's choice of log entry 2.) -/
def Obligations.IllegalWordCompletes : Prop :=
  ∀ (s : State) (w : Word s.params.PW) (m : Mode),
    s.block.seq = .busy w m → SequencerNext s → w.toNat = 0 ∨ 5 ≤ w.toNat →
    step s = .next { s with
      schedule := s.schedule.tail
      block := { s.block with err := .illegalCommand, done := true, seq := .idle } }

/-- R115, R119: an idle block waits: a turn of the sequencer, and a turn of a host whose program is over,
change nothing of it. (That such turns exist, and are taken off the schedule, is the model's choice of
log entry 2.) -/
def Obligations.IdleBlockWaits : Prop :=
  ∀ s : State, s.block.seq = .idle →
    (SequencerNext s ∨ (s.nextTurn = .host ∧ s.program = [])) →
    step s = .next (s.setSchedule s.schedule.tail)

/-- R36: a host write to CMD in IDLE issues the word, whatever it is: it is latched with MODE, DONE and
ERR are cleared, and nothing else of the block changes. (The access is taken off the program, and its
turn off the schedule, by the model's choice of log entry 2.) -/
def Obligations.CmdWriteIssues : Prop :=
  ∀ (s : State) (v : Word s.params.PW) (ops : List (HostOp s.params.PW)),
    s.block.seq = .idle → AccessNext s (.write 0x2 v) ops →
    step s = .next { s with
      schedule := s.schedule.tail
      program := ops
      block := { s.block with seq := .busy v s.block.mode, done := false, err := .noError } }

/-- R35: the effects of a host write in IDLE on every slot but CMD: MODE takes bit 0; bit 4 of a STATUS
write clears OVR; P_IN, Q_IN and DIN take the whole word; read-only and reserved slots ignore it. (The
access is taken off the program, and its turn off the schedule, by the model's choice of log
entry 2.) -/
def Obligations.IdleHostWrites : Prop :=
  ∀ (s : State) (a : Addr) (v : Word s.params.PW) (ops : List (HostOp s.params.PW)),
    s.block.seq = .idle → AccessNext s (.write a v) ops → a ≠ 0x2 →
    step s = .next { s with
      schedule := s.schedule.tail
      program := ops
      block :=
        if a = 0x0 then
          { s.block with mode := if v.toNat % 2 = 1 then .strict else .legacy }
        else if a = 0x1 then
          { s.block with ovr := if v.toNat / 16 % 2 = 1 then false else s.block.ovr }
        else if a = 0x3 then { s.block with pIn := v }
        else if a = 0x4 then { s.block with qIn := v }
        else if a = 0xB then { s.block with din := v }
        else s.block }

/-- R37: while a command is in flight, a host write to CTRL, CMD, P_IN, Q_IN or DIN is dropped and sets
OVR, a write to STATUS is honoured, and a write to any other slot is ignored. (The access is taken off
the program, and its turn off the schedule, by the model's choice of log entry 2.) -/
def Obligations.BusyHostWrites : Prop :=
  ∀ (s : State) (a : Addr) (v : Word s.params.PW) (ops : List (HostOp s.params.PW)),
    s.block.busy = true → AccessNext s (.write a v) ops →
    step s = .next { s with
      schedule := s.schedule.tail
      program := ops
      block :=
        if a = 0x0 ∨ a = 0x2 ∨ a = 0x3 ∨ a = 0x4 ∨ a = 0xB then { s.block with ovr := true }
        else if a = 0x1 then
          { s.block with ovr := if v.toNat / 16 % 2 = 1 then false else s.block.ovr }
        else s.block }

/-- R107, R37: OVR stays set through every step but a host write of 1 to STATUS bit 4 and a reset. -/
def Obligations.OvrIsSticky : Prop :=
  ∀ s t : State, step s = .next t → s.block.ovr = true → ¬ResetNext s →
    (∀ v ops, AccessNext s (.write 0x1 v) ops → v.toNat / 16 % 2 = 0) →
    t.block.ovr = true

/-- R28, R37: OVR is set only by a dropped write. -/
def Obligations.OvrSetOnlyByDroppedWrite : Prop :=
  ∀ s t : State, step s = .next t → s.block.ovr = false → t.block.ovr = true → DropsWrite s

/-- R34, R39: a host read changes no state of the block. The value the host gets is put at the head of
the log of reads (the model's choice of log entry 4); the access is taken off the program, and its turn
off the schedule (log entry 2). -/
def Obligations.HostReadChangesNothing : Prop :=
  ∀ (s : State) (a : Addr) (ops : List (HostOp s.params.PW)),
    AccessNext s (.read a) ops →
    step s = .next { s with
      schedule := s.schedule.tail
      program := ops
      readLog := (a, s.block.hostRead a) :: s.readLog }

/-- R15, R16, R34: what a host read returns at every slot but STATUS: the register of R15 at that slot,
and 0 for CMD and for the reserved slots. -/
def Obligations.HostReadValues : Prop :=
  ∀ s : State,
    (s.block.hostRead 0x0).toNat = (if s.block.mode = .strict then 1 else 0) ∧
    s.block.hostRead 0x2 = 0 ∧
    s.block.hostRead 0x3 = s.block.pIn ∧ s.block.hostRead 0x4 = s.block.qIn ∧
    s.block.hostRead 0x5 = s.block.p ∧ s.block.hostRead 0x6 = s.block.q ∧
    s.block.hostRead 0x7 = s.block.n ∧ s.block.hostRead 0x8 = s.block.l ∧
    s.block.hostRead 0x9 = s.block.e ∧ s.block.hostRead 0xA = s.block.d ∧
    s.block.hostRead 0xB = s.block.din ∧ s.block.hostRead 0xC = s.block.dout ∧
    (∀ a : Addr, 0xD ≤ a.toNat → s.block.hostRead a = 0)

/-- R18, R25, R101: STATUS as the host reads it, at every width: BUSY (1 exactly when the sequencer is
not IDLE) in bit 0, DONE 1, MOD_VALID 2, KEY_VALID 3, OVR 4, every other bit below 8 and above 11 0, and
in 11:8 the code of ERR, with the number that R101 gives each of the nine. -/
def Obligations.StatusWordLayout : Prop :=
  ∀ s : State,
    (s.block.hostRead 0x1).toNat =
      (if s.block.seq = .idle then 0 else 1) + 2 * s.block.done.toNat +
        4 * s.block.modValid.toNat + 8 * s.block.keyValid.toNat + 16 * s.block.ovr.toNat +
        256 * (match s.block.err with
          | .noError => 0
          | .illegalCommand => 1
          | .notConstructed => 2
          | .keyNotGenerated => 3
          | .invalidModulusInput => 4
          | .degenerateTotient => 5
          | .invalidChar => 6
          | .codepointOverflow => 7
          | .invalidScalar => 8)

/-- R118, R29: a reset gives every register its reset value and abandons the command in flight. (That
the host's program, the schedule behind the reset and the log of reads stay is the model's inference of
log entry 12.) -/
def Obligations.ResetClearsBlock : Prop :=
  ∀ s : State, ResetNext s →
    ∃ b : Block s.params.PW,
      step s = .next { s with schedule := s.schedule.tail, block := b } ∧
      b.seq = .idle ∧ b.mode = .legacy ∧ ∀ a : Addr, b.hostRead a = 0

/-- R29: the machine right after reset reads 0 in every slot, is IDLE and in LEGACY, and has the
reference width of R5. -/
def Obligations.ResetStateReadsZero : Prop :=
  State.reset.params.PW = 32 ∧ State.reset.block.seq = .idle ∧ State.reset.block.mode = .legacy ∧
    ∀ a : Addr, State.reset.block.hostRead a = 0

/-- R21, R28: P, Q, N, L and MOD_VALID change in no step but a BUILD's completion and a reset. -/
def Obligations.OnlyBuildWritesInstance : Prop :=
  ∀ s t : State, step s = .next t → ¬ResetNext s → ¬Completes s .build →
    t.block.p.toNat = s.block.p.toNat ∧ t.block.q.toNat = s.block.q.toNat ∧
      t.block.n.toNat = s.block.n.toNat ∧ t.block.l.toNat = s.block.l.toNat ∧
      t.block.modValid = s.block.modValid

/-- R22, R28: E, D and KEY_VALID change in no step but a BUILD's or GENKEY's completion and a reset. -/
def Obligations.OnlyBuildAndGenkeyWriteKeys : Prop :=
  ∀ s t : State, step s = .next t → ¬ResetNext s → ¬Completes s .build → ¬Completes s .genkey →
    t.block.e.toNat = s.block.e.toNat ∧ t.block.d.toNat = s.block.d.toNat ∧
      t.block.keyValid = s.block.keyValid

/-- R23: DOUT changes in no step but an ENC's or DEC's completion without error and a reset. -/
def Obligations.OnlyCipherWritesDout : Prop :=
  ∀ s t : State, step s = .next t → ¬ResetNext s →
    ¬((Completes s .enc ∨ Completes s .dec) ∧ t.block.err = .noError) →
    t.block.dout.toNat = s.block.dout.toNat

/-- R20, R26, R23, R17: neither P_IN, Q_IN, DIN nor MODE is changed by a command, by a host write to
another slot, or by any other step: only a host write to the register's own slot, made in IDLE, and a
reset can change it. -/
def Obligations.OnlyHostWritesOperands : Prop :=
  ∀ s t : State, step s = .next t → ¬ResetNext s →
    ((s.block.busy = true ∨ ¬WriteNext s 0x3) → t.block.pIn.toNat = s.block.pIn.toNat) ∧
    ((s.block.busy = true ∨ ¬WriteNext s 0x4) → t.block.qIn.toNat = s.block.qIn.toNat) ∧
    ((s.block.busy = true ∨ ¬WriteNext s 0xB) → t.block.din.toNat = s.block.din.toNat) ∧
    ((s.block.busy = true ∨ ¬WriteNext s 0x0) → t.block.mode = s.block.mode)

/-- The host's word put where the next step takes its command runs as that command, from the state its
issue gives (R36, R43; the model's choice of log entry 3). -/
def Obligations.FetchWordRunsCommand : Prop :=
  ∀ (s : State) (nbits w : Nat) (i : Instr),
    decode (BitVec.ofNat (2 * s.params.PW) (w % 2 ^ nbits)) = .ok i →
    step (s.withFetchWord nbits w) =
      exec i (s.setBlock { s.block with
        seq := .busy (BitVec.ofNat (2 * s.params.PW) (w % 2 ^ nbits)) s.block.mode
        done := false
        err := .noError })

/-! ### Runs -/

/-- R50, R103: the machine never stops: every run of every length answers a next state. -/
def Obligations.EveryRunIsSafe : Prop := ∀ s : State, SafeRun s

/-- R30, R24, R18: the invariant holds at reset. -/
def Obligations.InvariantHoldsAtReset : Prop := State.reset.Inv

/-- R30, R24, R18: every step keeps the invariant. -/
def Obligations.StepKeepsInvariant : Prop :=
  ∀ s t : State, s.Inv → step s = .next t → t.Inv

/-- R30, R81: with the invariant, a keyed instance with L ≥ 3 has a valid exponent pair, and E and D are
the smallest that qualify. -/
def Obligations.KeyedInstanceIsValid : Prop :=
  ∀ s : State, s.Inv → s.block.modValid = true → s.block.keyValid = true →
    3 ≤ s.block.l.toNat →
    2 ≤ s.block.e.toNat ∧ s.block.e.toNat < s.block.l.toNat ∧
      Nat.gcd s.block.e.toNat s.block.l.toNat = 1 ∧
      1 ≤ s.block.d.toNat ∧ s.block.d.toNat < s.block.l.toNat ∧
      s.block.e.toNat * s.block.d.toNat % s.block.l.toNat = 1 ∧
      (∀ i, 2 ≤ i → Nat.gcd i s.block.l.toNat = 1 → s.block.e.toNat ≤ i) ∧
      (∀ i, 1 ≤ i → s.block.e.toNat * i % s.block.l.toNat = 1 → s.block.d.toNat ≤ i)

/-- R81: two keyed instances with the same P and Q hold the same E and D. -/
def Obligations.SamePrimesSameKeys : Prop :=
  ∀ s t : State, s.Inv → t.Inv →
    s.block.modValid = true → s.block.keyValid = true →
    t.block.modValid = true → t.block.keyValid = true →
    s.block.p.toNat = t.block.p.toNat → s.block.q.toNat = t.block.q.toNat →
    s.block.e.toNat = t.block.e.toNat ∧ s.block.d.toNat = t.block.d.toNat

/-- R26, R37, R41: whatever the host does between the issue and the completion, the completion leaves the
same block up to OVR as it does at once. (The host's `n` turns before the sequencer's are data of the
schedule, log entry 2.) -/
def Obligations.ResultIndependentOfInterleaving : Prop :=
  ∀ (s : State) (w : Word s.params.PW) (m : Mode) (n : Nat) (rest : List Turn),
    s.block.seq = .busy w m →
    ∃ (b : Block s.params.PW) (o : Bool) (ops : List (HostOp s.params.PW))
      (log : List (Addr × Word s.params.PW)),
      step (s.setSchedule (.sequencer :: rest)) = .next { s with schedule := rest, block := b } ∧
      Host.Core.run Sys2Proof.core (n + 1)
          (s.setSchedule (List.replicate n .host ++ .sequencer :: rest)) =
        .next ({ s with
          schedule := rest
          block := { b with ovr := o }
          program := ops
          readLog := log } : State)

/-- R126: every command in flight completes, unless a reset comes first, within as many steps as the
schedule has turns, and one more (the bound is the model's, log entry 2: a finite schedule, then the
sequencer's turn). -/
def Obligations.IssuedCommandCompletes : Prop :=
  ∀ s : State, s.block.busy = true → .reset ∉ s.schedule →
    ∃ (k : Nat) (t : State), k ≤ s.schedule.length + 1 ∧
      Host.Core.run Sys2Proof.core k s = .next t ∧ t.block.busy = false ∧ t.block.done = true

/-- R92, R54: `encrypt c1 ... ck` in either mode, where every element passes the checks of ENC: under
every schedule without a reset the operation completes, and its result is the list of ci ^ E mod N in
input order; with no element the result is empty. (The schedule is the model's choice of log entry 2,
the log that the result is taken from that of log entry 4; log entry 14 says how.) -/
def Obligations.EncryptSequenceKeepsOrder : Prop :=
  ∀ (s : State) (cs : List Value) (ops : List (HostOp s.params.PW)),
    s.Inv → s.block.seq = .idle → .reset ∉ s.schedule →
    s.program = expand s.params.PW (.encrypt cs) ++ ops →
    (∀ c ∈ cs, EncPasses s.block.mode s.block c.toNat) →
    ∃ (b : Block s.params.PW) (reads : List (Addr × Word s.params.PW)),
      Performs s ops b reads ∧ b.busy = false ∧
      sequenceResult (elementResults reads) =
        .ok (cs.map fun c => c.toNat ^ s.block.e.toNat % s.block.n.toNat)

/-- R70, R54: `construct p, q` from IDLE, with operands the current mode admits: under every schedule
without a reset (log entry 2) the operation completes, and after its `wait` the block is IDLE without
error and holds the instance. -/
def Obligations.ConstructSequenceBuildsInstance : Prop :=
  ∀ (s : State) (p q : Value) (ops : List (HostOp s.params.PW)),
    s.block.seq = .idle → Admitted s.params.PW s.block.mode p.toNat q.toNat →
    .reset ∉ s.schedule → s.program = expand s.params.PW (.construct p q) ++ ops →
    ∃ (b : Block s.params.PW) (reads : List (Addr × Word s.params.PW)),
      Performs s ops b reads ∧ b.busy = false ∧ b.err = .noError ∧ b.modValid = true ∧
      b.keyValid = false ∧ b.p.toNat = p.toNat ∧ b.q.toNat = q.toNat ∧
      b.n.toNat = p.toNat * q.toNat ∧
      b.l.toNat = Nat.lcm (p.toNat - 1) (q.toNat - 1) ∧
      b.e.toNat = 2 ∧ b.d.toNat = 1

/-- R92, R54: `decrypt v1 ... vk` in either mode, where every element is below `2^RW` and passes the
checks of DEC: under every schedule without a reset the operation completes, and its result is the list
of vi ^ D mod N in input order; with no element the result is empty. (Log entries 2, 4 and 14, as for
`encrypt`.) -/
def Obligations.DecryptSequenceKeepsOrder : Prop :=
  ∀ (s : State) (vs : List Value) (ops : List (HostOp s.params.PW)),
    s.Inv → s.block.seq = .idle → .reset ∉ s.schedule →
    s.program = expand s.params.PW (.decrypt vs) ++ ops →
    (Line.decrypt vs).wellFormed s.params.PW = true →
    (∀ v ∈ vs, DecPasses s.block.mode s.block v.toNat) →
    ∃ (b : Block s.params.PW) (reads : List (Addr × Word s.params.PW)),
      Performs s ops b reads ∧ b.busy = false ∧
      sequenceResult (elementResults reads) =
        .ok (vs.map fun v => v.toNat ^ s.block.d.toNat % s.block.n.toNat)

/-- R92, R54: a sequence operation whose elements pass up to one that does not has failed at that
element, whatever follows it: its DOUT is not valid, since the STATUS read has ERR ≠ 0. (Log entries 2,
4 and 14, as for `encrypt`.) -/
def Obligations.SequenceFailsAtElement : Prop :=
  ∀ (s : State) (good others : List Value) (bad : Value) (ops : List (HostOp s.params.PW)),
    s.Inv → s.block.seq = .idle → .reset ∉ s.schedule →
    (Line.encrypt (good ++ bad :: others)).wellFormed s.params.PW = true →
    (s.program = expand s.params.PW (.encrypt (good ++ bad :: others)) ++ ops →
      (∀ c ∈ good, EncPasses s.block.mode s.block c.toNat) →
      ¬EncPasses s.block.mode s.block bad.toNat →
      ∃ (b : Block s.params.PW) (reads : List (Addr × Word s.params.PW)),
        Performs s ops b reads ∧ b.busy = false ∧
        sequenceResult (elementResults reads) = .error good.length) ∧
    (s.program = expand s.params.PW (.decrypt (good ++ bad :: others)) ++ ops →
      (∀ v ∈ good, DecPasses s.block.mode s.block v.toNat) →
      ¬DecPasses s.block.mode s.block bad.toNat →
      ∃ (b : Block s.params.PW) (reads : List (Addr × Word s.params.PW)),
        Performs s ops b reads ∧ b.busy = false ∧
        sequenceResult (elementResults reads) = .error good.length)

/-- R54, R42, R126: `wait` is the loop that reads STATUS and goes round again exactly while bit 0 of the
value is 1: a round in the host's turn, and, under every schedule without a reset, its end: some reads
while the command is in flight, and then one after its completion, with BUSY = 0 and DONE = 1. (Log
entries 2 and 4.) -/
def Obligations.WaitLoopsUntilDone : Prop :=
  ∀ (s : State) (ops : List (HostOp s.params.PW)), s.program = .poll :: ops →
    (s.nextTurn = .host →
      step s = .next { s with
        schedule := s.schedule.tail
        program := if (s.block.hostRead 0x1).toNat % 2 = 1 then .poll :: ops else ops
        readLog := (0x1, s.block.hostRead 0x1) :: s.readLog }) ∧
    (s.block.busy = true → .reset ∉ s.schedule →
      ∃ (b : Block s.params.PW) (n : Nat), b.busy = false ∧ b.done = true ∧
        Performs s ops b
          (List.replicate n (0x1, s.block.hostRead 0x1) ++ [(0x1, b.hostRead 0x1)]))

/-- R128: every program comes to where its last transaction has been performed. If BUSY = 1 there, the run
has no end state. If BUSY = 0 there, the run has one as soon as one later read of STATUS follows; without
a reset its registers are those at that point. There is at most one end state, it is IDLE, and it comes
with a read of STATUS that returned BUSY = 0; with no later read there is none. (That `later` reads follow
the program is log entry 11, the schedule log entry 2, the log of reads log entry 4.) -/
def Obligations.RunHasOneEndState : Prop :=
  ∀ (s : State) (lines : List Line) (later : Nat),
    (∃ v, ProgramPerformed s lines later v ∧
      (v.block.busy = true → ∀ t, ¬RunEndsIn s lines later t) ∧
      (v.block.busy = false → 1 ≤ later → ∃ t, RunEndsIn s lines later t) ∧
      (v.block.busy = false → 1 ≤ later → .reset ∉ v.schedule →
        ∃ ops ts log, RunEndsIn s lines later
          ({ v with program := ops, schedule := ts, readLog := log } : State))) ∧
    (∀ t, RunEndsIn s lines later t → 1 ≤ later ∧ t.block.busy = false ∧
      (∃ st log, t.readLog = (0x1, st) :: log ∧ st.toNat % 2 = 0) ∧
      ∀ t', RunEndsIn s lines later t' → t' = t)
end

