-- ==== Sys2Proof/Laws/State.lean ====
section
/-! SUPPORT. One lemma per field per update of the block and the state, each true by `rfl`, so that no
later proof unfolds an update. -/

namespace Sys2Proof.Machine

section State

variable (s : State)

@[simp] theorem State.setBlock_params (b : Block s.params.PW) : (s.setBlock b).params = s.params := rfl
@[simp] theorem State.setBlock_block (b : Block s.params.PW) : (s.setBlock b).block = b := rfl
@[simp] theorem State.setBlock_program (b : Block s.params.PW) :
    (s.setBlock b).program = s.program := rfl
@[simp] theorem State.setBlock_schedule (b : Block s.params.PW) :
    (s.setBlock b).schedule = s.schedule := rfl
@[simp] theorem State.setBlock_readLog (b : Block s.params.PW) : (s.setBlock b).readLog = s.readLog := rfl
@[simp] theorem State.setBlock_setBlock (b b' : Block s.params.PW) :
    (s.setBlock b).setBlock b' = s.setBlock b' := rfl
@[simp] theorem State.setBlock_inj (b b' : Block s.params.PW) :
    s.setBlock b = s.setBlock b' ↔ b = b' := by
  simp [State.setBlock]
@[simp] theorem State.setProgram_params (x : List (HostOp s.params.PW)) :
    (s.setProgram x).params = s.params := rfl
@[simp] theorem State.setProgram_block (x : List (HostOp s.params.PW)) :
    (s.setProgram x).block = s.block := rfl
@[simp] theorem State.setProgram_program (x : List (HostOp s.params.PW)) :
    (s.setProgram x).program = x := rfl
@[simp] theorem State.setProgram_schedule (x : List (HostOp s.params.PW)) :
    (s.setProgram x).schedule = s.schedule := rfl
@[simp] theorem State.setProgram_readLog (x : List (HostOp s.params.PW)) :
    (s.setProgram x).readLog = s.readLog := rfl
@[simp] theorem State.setSchedule_params (x : List Turn) :
    (s.setSchedule x).params = s.params := rfl
@[simp] theorem State.setSchedule_block (x : List Turn) :
    (s.setSchedule x).block = s.block := rfl
@[simp] theorem State.setSchedule_program (x : List Turn) :
    (s.setSchedule x).program = s.program := rfl
@[simp] theorem State.setSchedule_schedule (x : List Turn) :
    (s.setSchedule x).schedule = x := rfl
@[simp] theorem State.setSchedule_readLog (x : List Turn) :
    (s.setSchedule x).readLog = s.readLog := rfl
@[simp] theorem State.setSchedule_self : s.setSchedule s.schedule = s := rfl

end State

section Block

variable {PW : Nat} (b : Block PW)

@[simp] theorem Block.issue_mode (w : Word PW) : (b.issue w).mode = b.mode := rfl
@[simp] theorem Block.issue_done (w : Word PW) : (b.issue w).done = false := rfl
@[simp] theorem Block.issue_modValid (w : Word PW) : (b.issue w).modValid = b.modValid := rfl
@[simp] theorem Block.issue_keyValid (w : Word PW) : (b.issue w).keyValid = b.keyValid := rfl
@[simp] theorem Block.issue_ovr (w : Word PW) : (b.issue w).ovr = b.ovr := rfl
@[simp] theorem Block.issue_err (w : Word PW) : (b.issue w).err = .noError := rfl
@[simp] theorem Block.issue_pIn (w : Word PW) : (b.issue w).pIn = b.pIn := rfl
@[simp] theorem Block.issue_qIn (w : Word PW) : (b.issue w).qIn = b.qIn := rfl
@[simp] theorem Block.issue_p (w : Word PW) : (b.issue w).p = b.p := rfl
@[simp] theorem Block.issue_q (w : Word PW) : (b.issue w).q = b.q := rfl
@[simp] theorem Block.issue_n (w : Word PW) : (b.issue w).n = b.n := rfl
@[simp] theorem Block.issue_l (w : Word PW) : (b.issue w).l = b.l := rfl
@[simp] theorem Block.issue_e (w : Word PW) : (b.issue w).e = b.e := rfl
@[simp] theorem Block.issue_d (w : Word PW) : (b.issue w).d = b.d := rfl
@[simp] theorem Block.issue_din (w : Word PW) : (b.issue w).din = b.din := rfl
@[simp] theorem Block.issue_dout (w : Word PW) : (b.issue w).dout = b.dout := rfl
@[simp] theorem Block.issue_seq (w : Word PW) : (b.issue w).seq = .busy w b.mode := rfl

@[simp] theorem Block.setOvr_mode : (b.setOvr).mode = b.mode := rfl
@[simp] theorem Block.setOvr_done : (b.setOvr).done = b.done := rfl
@[simp] theorem Block.setOvr_modValid : (b.setOvr).modValid = b.modValid := rfl
@[simp] theorem Block.setOvr_keyValid : (b.setOvr).keyValid = b.keyValid := rfl
@[simp] theorem Block.setOvr_ovr : (b.setOvr).ovr = true := rfl
@[simp] theorem Block.setOvr_err : (b.setOvr).err = b.err := rfl
@[simp] theorem Block.setOvr_pIn : (b.setOvr).pIn = b.pIn := rfl
@[simp] theorem Block.setOvr_qIn : (b.setOvr).qIn = b.qIn := rfl
@[simp] theorem Block.setOvr_p : (b.setOvr).p = b.p := rfl
@[simp] theorem Block.setOvr_q : (b.setOvr).q = b.q := rfl
@[simp] theorem Block.setOvr_n : (b.setOvr).n = b.n := rfl
@[simp] theorem Block.setOvr_l : (b.setOvr).l = b.l := rfl
@[simp] theorem Block.setOvr_e : (b.setOvr).e = b.e := rfl
@[simp] theorem Block.setOvr_d : (b.setOvr).d = b.d := rfl
@[simp] theorem Block.setOvr_din : (b.setOvr).din = b.din := rfl
@[simp] theorem Block.setOvr_dout : (b.setOvr).dout = b.dout := rfl
@[simp] theorem Block.setOvr_seq : (b.setOvr).seq = b.seq := rfl

@[simp] theorem Block.clearOvrIf_mode (c : Bool) : (b.clearOvrIf c).mode = b.mode := rfl
@[simp] theorem Block.clearOvrIf_done (c : Bool) : (b.clearOvrIf c).done = b.done := rfl
@[simp] theorem Block.clearOvrIf_modValid (c : Bool) : (b.clearOvrIf c).modValid = b.modValid := rfl
@[simp] theorem Block.clearOvrIf_keyValid (c : Bool) : (b.clearOvrIf c).keyValid = b.keyValid := rfl
@[simp] theorem Block.clearOvrIf_ovr (c : Bool) : (b.clearOvrIf c).ovr = (b.ovr && !c) := rfl
@[simp] theorem Block.clearOvrIf_err (c : Bool) : (b.clearOvrIf c).err = b.err := rfl
@[simp] theorem Block.clearOvrIf_pIn (c : Bool) : (b.clearOvrIf c).pIn = b.pIn := rfl
@[simp] theorem Block.clearOvrIf_qIn (c : Bool) : (b.clearOvrIf c).qIn = b.qIn := rfl
@[simp] theorem Block.clearOvrIf_p (c : Bool) : (b.clearOvrIf c).p = b.p := rfl
@[simp] theorem Block.clearOvrIf_q (c : Bool) : (b.clearOvrIf c).q = b.q := rfl
@[simp] theorem Block.clearOvrIf_n (c : Bool) : (b.clearOvrIf c).n = b.n := rfl
@[simp] theorem Block.clearOvrIf_l (c : Bool) : (b.clearOvrIf c).l = b.l := rfl
@[simp] theorem Block.clearOvrIf_e (c : Bool) : (b.clearOvrIf c).e = b.e := rfl
@[simp] theorem Block.clearOvrIf_d (c : Bool) : (b.clearOvrIf c).d = b.d := rfl
@[simp] theorem Block.clearOvrIf_din (c : Bool) : (b.clearOvrIf c).din = b.din := rfl
@[simp] theorem Block.clearOvrIf_dout (c : Bool) : (b.clearOvrIf c).dout = b.dout := rfl
@[simp] theorem Block.clearOvrIf_seq (c : Bool) : (b.clearOvrIf c).seq = b.seq := rfl

@[simp] theorem Block.raise_mode (c : ErrCode) : (b.raise c).mode = b.mode := rfl
@[simp] theorem Block.raise_done (c : ErrCode) : (b.raise c).done = true := rfl
@[simp] theorem Block.raise_modValid (c : ErrCode) : (b.raise c).modValid = b.modValid := rfl
@[simp] theorem Block.raise_keyValid (c : ErrCode) : (b.raise c).keyValid = b.keyValid := rfl
@[simp] theorem Block.raise_ovr (c : ErrCode) : (b.raise c).ovr = b.ovr := rfl
@[simp] theorem Block.raise_err (c : ErrCode) : (b.raise c).err = c := rfl
@[simp] theorem Block.raise_pIn (c : ErrCode) : (b.raise c).pIn = b.pIn := rfl
@[simp] theorem Block.raise_qIn (c : ErrCode) : (b.raise c).qIn = b.qIn := rfl
@[simp] theorem Block.raise_p (c : ErrCode) : (b.raise c).p = b.p := rfl
@[simp] theorem Block.raise_q (c : ErrCode) : (b.raise c).q = b.q := rfl
@[simp] theorem Block.raise_n (c : ErrCode) : (b.raise c).n = b.n := rfl
@[simp] theorem Block.raise_l (c : ErrCode) : (b.raise c).l = b.l := rfl
@[simp] theorem Block.raise_e (c : ErrCode) : (b.raise c).e = b.e := rfl
@[simp] theorem Block.raise_d (c : ErrCode) : (b.raise c).d = b.d := rfl
@[simp] theorem Block.raise_din (c : ErrCode) : (b.raise c).din = b.din := rfl
@[simp] theorem Block.raise_dout (c : ErrCode) : (b.raise c).dout = b.dout := rfl
@[simp] theorem Block.raise_seq (c : ErrCode) : (b.raise c).seq = .idle := rfl

@[simp] theorem Block.succeed_mode : (b.succeed).mode = b.mode := rfl
@[simp] theorem Block.succeed_done : (b.succeed).done = true := rfl
@[simp] theorem Block.succeed_modValid : (b.succeed).modValid = b.modValid := rfl
@[simp] theorem Block.succeed_keyValid : (b.succeed).keyValid = b.keyValid := rfl
@[simp] theorem Block.succeed_ovr : (b.succeed).ovr = b.ovr := rfl
@[simp] theorem Block.succeed_err : (b.succeed).err = .noError := rfl
@[simp] theorem Block.succeed_pIn : (b.succeed).pIn = b.pIn := rfl
@[simp] theorem Block.succeed_qIn : (b.succeed).qIn = b.qIn := rfl
@[simp] theorem Block.succeed_p : (b.succeed).p = b.p := rfl
@[simp] theorem Block.succeed_q : (b.succeed).q = b.q := rfl
@[simp] theorem Block.succeed_n : (b.succeed).n = b.n := rfl
@[simp] theorem Block.succeed_l : (b.succeed).l = b.l := rfl
@[simp] theorem Block.succeed_e : (b.succeed).e = b.e := rfl
@[simp] theorem Block.succeed_d : (b.succeed).d = b.d := rfl
@[simp] theorem Block.succeed_din : (b.succeed).din = b.din := rfl
@[simp] theorem Block.succeed_dout : (b.succeed).dout = b.dout := rfl
@[simp] theorem Block.succeed_seq : (b.succeed).seq = .idle := rfl

@[simp] theorem Block.writeKeys_mode (e d : Nat) : (b.writeKeys e d).mode = b.mode := rfl
@[simp] theorem Block.writeKeys_done (e d : Nat) : (b.writeKeys e d).done = b.done := rfl
@[simp] theorem Block.writeKeys_modValid (e d : Nat)
    : (b.writeKeys e d).modValid = b.modValid := rfl
@[simp] theorem Block.writeKeys_keyValid (e d : Nat) : (b.writeKeys e d).keyValid = true := rfl
@[simp] theorem Block.writeKeys_ovr (e d : Nat) : (b.writeKeys e d).ovr = b.ovr := rfl
@[simp] theorem Block.writeKeys_err (e d : Nat) : (b.writeKeys e d).err = b.err := rfl
@[simp] theorem Block.writeKeys_pIn (e d : Nat) : (b.writeKeys e d).pIn = b.pIn := rfl
@[simp] theorem Block.writeKeys_qIn (e d : Nat) : (b.writeKeys e d).qIn = b.qIn := rfl
@[simp] theorem Block.writeKeys_p (e d : Nat) : (b.writeKeys e d).p = b.p := rfl
@[simp] theorem Block.writeKeys_q (e d : Nat) : (b.writeKeys e d).q = b.q := rfl
@[simp] theorem Block.writeKeys_n (e d : Nat) : (b.writeKeys e d).n = b.n := rfl
@[simp] theorem Block.writeKeys_l (e d : Nat) : (b.writeKeys e d).l = b.l := rfl
@[simp] theorem Block.writeKeys_e (e d : Nat) : (b.writeKeys e d).e = BitVec.ofNat (2 * PW) e := rfl
@[simp] theorem Block.writeKeys_d (e d : Nat) : (b.writeKeys e d).d = BitVec.ofNat (2 * PW) d := rfl
@[simp] theorem Block.writeKeys_din (e d : Nat) : (b.writeKeys e d).din = b.din := rfl
@[simp] theorem Block.writeKeys_dout (e d : Nat) : (b.writeKeys e d).dout = b.dout := rfl
@[simp] theorem Block.writeKeys_seq (e d : Nat) : (b.writeKeys e d).seq = b.seq := rfl

@[simp] theorem Block.writeDout_mode (v : Nat) : (b.writeDout v).mode = b.mode := rfl
@[simp] theorem Block.writeDout_done (v : Nat) : (b.writeDout v).done = b.done := rfl
@[simp] theorem Block.writeDout_modValid (v : Nat) : (b.writeDout v).modValid = b.modValid := rfl
@[simp] theorem Block.writeDout_keyValid (v : Nat) : (b.writeDout v).keyValid = b.keyValid := rfl
@[simp] theorem Block.writeDout_ovr (v : Nat) : (b.writeDout v).ovr = b.ovr := rfl
@[simp] theorem Block.writeDout_err (v : Nat) : (b.writeDout v).err = b.err := rfl
@[simp] theorem Block.writeDout_pIn (v : Nat) : (b.writeDout v).pIn = b.pIn := rfl
@[simp] theorem Block.writeDout_qIn (v : Nat) : (b.writeDout v).qIn = b.qIn := rfl
@[simp] theorem Block.writeDout_p (v : Nat) : (b.writeDout v).p = b.p := rfl
@[simp] theorem Block.writeDout_q (v : Nat) : (b.writeDout v).q = b.q := rfl
@[simp] theorem Block.writeDout_n (v : Nat) : (b.writeDout v).n = b.n := rfl
@[simp] theorem Block.writeDout_l (v : Nat) : (b.writeDout v).l = b.l := rfl
@[simp] theorem Block.writeDout_e (v : Nat) : (b.writeDout v).e = b.e := rfl
@[simp] theorem Block.writeDout_d (v : Nat) : (b.writeDout v).d = b.d := rfl
@[simp] theorem Block.writeDout_din (v : Nat) : (b.writeDout v).din = b.din := rfl
@[simp] theorem Block.writeDout_dout (v : Nat)
    : (b.writeDout v).dout = BitVec.ofNat (2 * PW) v := rfl
@[simp] theorem Block.writeDout_seq (v : Nat) : (b.writeDout v).seq = b.seq := rfl

@[simp] theorem Block.writeInstance_mode (n l : Nat) : (b.writeInstance n l).mode = b.mode := rfl
@[simp] theorem Block.writeInstance_done (n l : Nat) : (b.writeInstance n l).done = b.done := rfl
@[simp] theorem Block.writeInstance_modValid (n l : Nat)
    : (b.writeInstance n l).modValid = true := rfl
@[simp] theorem Block.writeInstance_keyValid (n l : Nat)
    : (b.writeInstance n l).keyValid = false := rfl
@[simp] theorem Block.writeInstance_ovr (n l : Nat) : (b.writeInstance n l).ovr = b.ovr := rfl
@[simp] theorem Block.writeInstance_err (n l : Nat) : (b.writeInstance n l).err = b.err := rfl
@[simp] theorem Block.writeInstance_pIn (n l : Nat) : (b.writeInstance n l).pIn = b.pIn := rfl
@[simp] theorem Block.writeInstance_qIn (n l : Nat) : (b.writeInstance n l).qIn = b.qIn := rfl
@[simp] theorem Block.writeInstance_p (n l : Nat) : (b.writeInstance n l).p = b.pIn := rfl
@[simp] theorem Block.writeInstance_q (n l : Nat) : (b.writeInstance n l).q = b.qIn := rfl
@[simp] theorem Block.writeInstance_n (n l : Nat)
    : (b.writeInstance n l).n = BitVec.ofNat (2 * PW) n := rfl
@[simp] theorem Block.writeInstance_l (n l : Nat)
    : (b.writeInstance n l).l = BitVec.ofNat (2 * PW) l := rfl
@[simp] theorem Block.writeInstance_e (n l : Nat)
    : (b.writeInstance n l).e = BitVec.ofNat (2 * PW) 2 := rfl
@[simp] theorem Block.writeInstance_d (n l : Nat)
    : (b.writeInstance n l).d = BitVec.ofNat (2 * PW) 1 := rfl
@[simp] theorem Block.writeInstance_din (n l : Nat) : (b.writeInstance n l).din = b.din := rfl
@[simp] theorem Block.writeInstance_dout (n l : Nat) : (b.writeInstance n l).dout = b.dout := rfl
@[simp] theorem Block.writeInstance_seq (n l : Nat) : (b.writeInstance n l).seq = b.seq := rfl

@[simp] theorem Block.issue_busy (w : Word PW) : (b.issue w).busy = true := rfl
@[simp] theorem Block.setOvr_busy : b.setOvr.busy = b.busy := rfl
@[simp] theorem Block.clearOvrIf_busy (c : Bool) : (b.clearOvrIf c).busy = b.busy := rfl
@[simp] theorem Block.raise_busy (c : ErrCode) : (b.raise c).busy = false := rfl
@[simp] theorem Block.succeed_busy : b.succeed.busy = false := rfl

end Block

end Sys2Proof.Machine
end

