-- ==== Sys2Proof/Laws/Ops.lean ====
section
/-! SUPPORT. What each shared operation can do, said once: the completion, the commands, the host's
accesses, and a step. Later proofs cite these and unfold nothing. -/

namespace Sys2Proof.Machine

/-! ### Flags -/

theorem Block.busy_eq_false {PW : Nat} {b : Block PW} : b.busy = false ↔ b.seq = .idle := by
  unfold Block.busy
  cases b.seq <;> simp

theorem Block.busy_eq_true {PW : Nat} {b : Block PW} :
    b.busy = true ↔ ∃ w m, b.seq = .busy w m := by
  unfold Block.busy
  cases b.seq <;> simp

/-! ### Completion -/

/-- A completion in IDLE does not exist. -/
theorem complete_idle {command : Command} {s : State} (h : s.block.seq = .idle) :
    complete command s = .fault .noCommandInFlight := by
  simp [complete, h]

/-- A completion of a command in flight is the command's outcome. -/
theorem complete_busy {command : Command} {s : State} {w : Word s.params.PW} {m : Mode}
    (h : s.block.seq = .busy w m) :
    complete command s = .next (s.setBlock (s.block.finish (command s.params.PW m s.block))) := by
  simp [complete, h]

/-- A completion that answers a next state had a command in flight: either the command's writes were
applied, or its error was raised. -/
theorem complete_next {command : Command} {s t : State} (h : complete command s = .next t) :
    ∃ w m, s.block.seq = .busy w m ∧
      ((∃ b, command s.params.PW m s.block = .ok b ∧ t = s.setBlock b.succeed) ∨
        (∃ c, command s.params.PW m s.block = .error c ∧ t = s.setBlock (s.block.raise c))) := by
  cases hs : s.block.seq with
  | idle => simp [complete_idle hs] at h
  | busy w m =>
    rw [complete_busy hs] at h
    injection h with h
    refine ⟨w, m, rfl, ?_⟩
    cases hc : command s.params.PW m s.block with
    | ok b => exact .inl ⟨b, rfl, by simp [← h, hc, Block.finish]⟩
    | error c => exact .inr ⟨c, rfl, by simp [← h, hc, Block.finish]⟩

/-! ### The commands -/

/-- BUILD either writes the instance of its operands, or refuses them. -/
theorem buildCommand_cases (PW : Nat) (m : Mode) (b : Block PW) :
    buildCommand PW m b = .ok (b.writeInstance (build b.pIn.toNat b.qIn.toNat).1
        (build b.pIn.toNat b.qIn.toNat).2) ∨
      buildCommand PW m b = .error .invalidModulusInput := by
  unfold buildCommand
  dsimp only
  repeat' split
  all_goals simp

/-- GENKEY either writes the keys it finds for L, on an instance, or ends with one of its two
errors. -/
theorem genkeyCommand_cases (PW : Nat) (m : Mode) (b : Block PW) :
    (genkeyCommand PW m b = .ok (b.writeKeys (findPublicExponent b.l.toNat)
        (privateExponent (findPublicExponent b.l.toNat) b.l.toNat)) ∧ b.modValid = true ∧
        ¬(m = .strict ∧ b.l.toNat ≤ 2)) ∨
      (genkeyCommand PW m b = .error .notConstructed ∧ b.modValid = false) ∨
      (genkeyCommand PW m b = .error .degenerateTotient ∧ b.modValid = true ∧ m = .strict ∧
        b.l.toNat ≤ 2) := by
  unfold genkeyCommand
  split
  · simp_all
  · split
    · simp_all
    · simp_all

/-- The checks of R87 let ENC and DEC pass, or name one of two errors. -/
theorem cipherChecks_cases {PW : Nat} (m : Mode) (b : Block PW) :
    (cipherChecks m b = none ∧ b.modValid = true ∧ (m = .strict → b.keyValid = true)) ∨
      (cipherChecks m b = some .notConstructed ∧ b.modValid = false) ∨
      (cipherChecks m b = some .keyNotGenerated ∧ b.modValid = true ∧ m = .strict ∧
        b.keyValid = false) := by
  unfold cipherChecks
  split
  · simp_all
  · split
    · simp_all
    · simp_all

/-- ENC either writes the power of the codepoint, on an instance, or ends with one of its errors. -/
theorem encCommand_cases (PW : Nat) (m : Mode) (b : Block PW) :
    (encCommand PW m b = .ok (b.writeDout (modexp b.din.toNat b.e.toNat b.n.toNat)) ∧
        b.modValid = true ∧ validScalar b.din.toNat = true) ∨
      (∃ c, encCommand PW m b = .error c ∧ (c = .notConstructed ∨ (c = .keyNotGenerated ∧ m = .strict) ∨
        c = .invalidChar ∨ (c = .codepointOverflow ∧ m = .strict))) := by
  unfold encCommand
  rcases cipherChecks_cases m b with ⟨h, hv, -⟩ | ⟨h, -⟩ | ⟨h, -, hm, -⟩
  · rw [h]
    dsimp only
    split
    · exact .inr ⟨_, rfl, by simp⟩
    · split
      · rename_i hm
        exact .inr ⟨_, rfl, by simp [hm.1]⟩
      · exact .inl ⟨rfl, hv, by simp_all⟩
  · rw [h]
    exact .inr ⟨_, rfl, by simp⟩
  · rw [h]
    exact .inr ⟨_, rfl, by simp [hm]⟩

/-- DEC either writes the power of DIN, which is a scalar value, on an instance, or ends with one of
its errors. -/
theorem decCommand_cases (PW : Nat) (m : Mode) (b : Block PW) :
    (decCommand PW m b = .ok (b.writeDout (modexp b.din.toNat b.d.toNat b.n.toNat)) ∧
        b.modValid = true ∧ validScalar (modexp b.din.toNat b.d.toNat b.n.toNat) = true) ∨
      (∃ c, decCommand PW m b = .error c ∧ (c = .notConstructed ∨ (c = .keyNotGenerated ∧ m = .strict) ∨
        c = .invalidScalar)) := by
  unfold decCommand codepointToChar
  rcases cipherChecks_cases m b with ⟨h, hv, -⟩ | ⟨h, -⟩ | ⟨h, -, hm, -⟩
  · rw [h]
    dsimp only
    split
    · exact .inr ⟨_, rfl, by simp⟩
    · rename_i ch hch
      split at hch
      · rename_i hs
        injection hch with hch
        subst hch
        exact .inl ⟨rfl, hv, hs⟩
      · simp at hch
  · rw [h]
    exact .inr ⟨_, rfl, by simp⟩
  · rw [h]
    exact .inr ⟨_, rfl, by simp [hm]⟩

/-! ### The host's accesses -/

/-- While a command is in flight a host write changes nothing but OVR. -/
theorem hostWrite_of_busy {PW : Nat} {b : Block PW} (h : b.busy = true) (a : Addr) (v : Word PW) :
    ∃ o, b.hostWrite a v = { b with ovr := o } := by
  unfold Block.hostWrite Block.unlessBusy Block.setOvr Block.clearOvrIf
  rw [h]
  split
  all_goals exact ⟨_, rfl⟩

/-- A host write changes no register that only a command writes (R21, R22, R23, R35). -/
theorem hostWrite_keeps_results {PW : Nat} (b : Block PW) (a : Addr) (v : Word PW) :
    (b.hostWrite a v).p = b.p ∧ (b.hostWrite a v).q = b.q ∧ (b.hostWrite a v).n = b.n ∧
      (b.hostWrite a v).l = b.l ∧ (b.hostWrite a v).e = b.e ∧ (b.hostWrite a v).d = b.d ∧
      (b.hostWrite a v).dout = b.dout ∧ (b.hostWrite a v).modValid = b.modValid ∧
      (b.hostWrite a v).keyValid = b.keyValid := by
  unfold Block.hostWrite Block.unlessBusy
  split
  all_goals first
    | split <;> simp
    | simp

/-! ### The program and the turns -/

/-- BUSY is bit 0 of STATUS as read (R18). -/
theorem statusRead_busy {PW : Nat} (h : 16 ≤ PW) (b : Block PW) :
    (b.hostRead (slotOf .status)).getLsbD 0 = b.busy := by
  show b.statusWord.getLsbD 0 = b.busy
  rw [Block.statusWord, BitVec.getLsbD_setWidth, decide_eq_true (show 0 < 2 * PW by omega)]
  simp only [BitVec.getLsbD_append]
  cases b.busy <;> rfl

/-- ERR is bits 11:8 of STATUS as read (R18). -/
theorem statusRead_err {PW : Nat} (h : 16 ≤ PW) (b : Block PW) :
    statusErr (b.hostRead (slotOf .status)) = b.err.code := by
  show statusErr b.statusWord = b.err.code
  refine BitVec.eq_of_getLsbD_eq fun i hi => ?_
  rw [statusErr, BitVec.getLsbD_extractLsb', Block.statusWord, BitVec.getLsbD_setWidth,
    decide_eq_true (show 8 + i < 2 * PW by omega), decide_eq_true hi]
  simp only [BitVec.getLsbD_append]
  simp [show ∀ k ≤ 8, ¬8 + i < k by omega]

/-- A host access changes the block or the log of reads, and nothing else. -/
theorem hostAccess_cases (s : State) (t : Transaction s.params.PW) :
    (∃ a, t = .read a ∧ hostAccess s t = { s with readLog := (a, s.block.hostRead a) :: s.readLog }) ∨
      (∃ a v, t = .write a v ∧ hostAccess s t = { s with block := s.block.hostWrite a v }) := by
  cases t with
  | read a => exact .inl ⟨a, rfl, rfl⟩
  | write a v => exact .inr ⟨a, v, rfl, rfl⟩

/-- Everything a host turn does: nothing with no program left; a read, a write, or a round of `wait`,
which stays in the program exactly while a command is in flight. -/
theorem hostTurn_cases (s : State) :
    (s.program = [] ∧ hostTurn s = s) ∨
    (∃ a ops, s.program = .access (.read a) :: ops ∧ hostTurn s =
      { s with program := ops, readLog := (a, s.block.hostRead a) :: s.readLog }) ∨
    (∃ a v ops, s.program = .access (.write a v) :: ops ∧ hostTurn s =
      { s with program := ops, block := s.block.hostWrite a v }) ∨
    (∃ ops, s.program = .poll :: ops ∧ hostTurn s =
      { s with program := if s.block.busy then s.program else ops
               readLog := (slotOf .status, s.block.hostRead (slotOf .status)) :: s.readLog }) := by
  unfold hostTurn
  split
  · exact .inl ⟨by assumption, rfl⟩
  · rename_i t ops h
    rcases hostAccess_cases (s.setProgram ops) t with ⟨a, rfl, e⟩ | ⟨a, v, rfl, e⟩
    · exact .inr (.inl ⟨a, ops, h, e⟩)
    · exact .inr (.inr (.inl ⟨a, v, ops, h, e⟩))
  · rename_i ops h
    refine .inr (.inr (.inr ⟨ops, h, ?_⟩))
    rw [← statusRead_busy s.params.legal]
    rfl

/-- A turn of the schedule comes first. -/
theorem nextTurn_cons {s : State} {t : Turn} {ts : List Turn} (h : s.schedule = t :: ts) :
    s.nextTurn = t := by
  simp [State.nextTurn, h]

/-- With no turn left and a command in flight the sequencer has the turn. -/
theorem nextTurn_nil_busy {s : State} (h : s.schedule = []) (hb : s.block.busy = true) :
    s.nextTurn = .sequencer := by
  simp [State.nextTurn, h, hb]

/-- With no turn left and no command in flight the host has the turn. -/
theorem nextTurn_nil_idle {s : State} (h : s.schedule = []) (hb : s.block.busy = false) :
    s.nextTurn = .host := by
  simp [State.nextTurn, h, hb]

/-! ### Steps -/

/-- A step in the host's turn. -/
theorem step_host {s : State} (h : s.nextTurn = .host) :
    step s = .next (hostTurn (s.setSchedule s.schedule.tail)) := by
  simp [step, h, takeTurn]

/-- A step in the sequencer's turn. -/
theorem step_sequencer {s : State} (h : s.nextTurn = .sequencer) :
    step s = sequencerTurn (s.setSchedule s.schedule.tail) := by
  simp [step, h, takeTurn]

/-- A step in the platform's turn. -/
theorem step_reset {s : State} (h : s.nextTurn = .reset) :
    step s = .next { s with
      schedule := s.schedule.tail
      block := Block.reset s.params.PW } := by
  simp [step, h, takeTurn, resetTurn]

/-- A turn of the sequencer in IDLE changes nothing. -/
theorem sequencerTurn_idle {s : State} (h : s.block.seq = .idle) : sequencerTurn s = .next s := by
  simp [sequencerTurn, h]

/-- A turn of the sequencer with a command in flight runs the command the word decodes to. -/
theorem sequencerTurn_ok {s : State} {w : Word s.params.PW} {m : Mode} {i : Instr}
    (h : s.block.seq = .busy w m) (hd : decode w = .ok i) : sequencerTurn s = exec i s := by
  simp [sequencerTurn, h, hd]

/-- A turn of the sequencer with no command's word in flight raises ILLEGAL_COMMAND. -/
theorem sequencerTurn_error {s : State} {w : Word s.params.PW} {m : Mode} {r : Reject}
    (h : s.block.seq = .busy w m) (hd : decode w = .error r) :
    sequencerTurn s = .next (s.setBlock (s.block.raise .illegalCommand)) := by
  simp [sequencerTurn, illegalCompletion, h, hd]

/-- The meaning of a command in flight answers a next state: some block, IDLE and DONE. -/
theorem exec_busy {s : State} {w : Word s.params.PW} {m : Mode} (h : s.block.seq = .busy w m)
    (i : Instr) : ∃ b : Block s.params.PW, exec i s = .next (s.setBlock b) ∧ b.seq = .idle ∧
      b.done = true := by
  have hf : ∀ o : Except ErrCode (Block s.params.PW),
      (s.block.finish o).seq = .idle ∧ (s.block.finish o).done = true := by
    intro o
    cases o <;> simp [Block.finish]
  cases i
  all_goals exact ⟨_, complete_busy h, (hf _).1, (hf _).2⟩

/-- Everything a step does: the host's turn, a reset, a turn of an idle sequencer, a completion with an
illegal word, or a command's completion. -/
theorem step_cases (s : State) :
    (s.nextTurn = .host ∧ step s = .next (hostTurn (s.setSchedule s.schedule.tail))) ∨
    (s.nextTurn = .reset ∧ step s = .next { s with
      schedule := s.schedule.tail
      block := Block.reset s.params.PW }) ∨
    (s.nextTurn = .sequencer ∧
      ((s.block.seq = .idle ∧ step s = .next (s.setSchedule s.schedule.tail)) ∨
        (∃ w m, s.block.seq = .busy w m ∧
          ((∃ r, decode w = .error r ∧ step s = .next { s with
              schedule := s.schedule.tail
              block := s.block.raise .illegalCommand }) ∨
            (∃ i, decode w = .ok i ∧ step s = exec i (s.setSchedule s.schedule.tail)))))) := by
  cases ht : s.nextTurn with
  | host => exact .inl ⟨rfl, step_host ht⟩
  | reset => exact .inr (.inl ⟨rfl, step_reset ht⟩)
  | sequencer =>
    refine .inr (.inr ⟨rfl, ?_⟩)
    have hstep := step_sequencer ht
    cases hs : s.block.seq with
    | idle => exact .inl ⟨rfl, hstep.trans (sequencerTurn_idle hs)⟩
    | busy w m =>
      refine .inr ⟨w, m, rfl, ?_⟩
      cases hd : decode w with
      | error r =>
        exact .inl ⟨r, rfl, hstep.trans (sequencerTurn_error (s := s.setSchedule s.schedule.tail) hs hd)⟩
      | ok i =>
        exact .inr ⟨i, rfl, hstep.trans (sequencerTurn_ok (s := s.setSchedule s.schedule.tail) hs hd)⟩

end Sys2Proof.Machine
end

