-- ==== Sys2Proof/Laws/Words.lean ====
section
/-! SUPPORT. Bounds of widths, fields of command words as numbers, and the checks in the form that the
statements use. -/

namespace Sys2Proof.Machine

/-- A number of 32 bits fits a register of every legal width (R5). -/
theorem lt_width (c : Config.Params) {n : Nat} (h : n < 2 ^ 32) : n < 2 ^ (2 * c.PW) :=
  lt_of_lt_of_le h (Nat.pow_le_pow_right (by decide) (by have := c.legal; omega))

/-- A product of two primes' width fits a register (R6). -/
theorem mul_lt_width {PW p q : Nat} (hp : p < 2 ^ PW) (hq : q < 2 ^ PW) :
    p * q < 2 ^ (2 * PW) := by
  rw [two_mul, pow_add]
  exact Nat.mul_lt_mul'' hp hq

/-- The lcm of a BUILD fits a register (R6). -/
theorem lcm_lt_width {PW p q : Nat} (hp : p < 2 ^ PW) (hq : q < 2 ^ PW) :
    Nat.lcm (p - 1) (q - 1) < 2 ^ (2 * PW) :=
  lt_of_le_of_lt (Nat.div_le_self _ _) (mul_lt_width (by omega) (by omega))

/-- OPC as a number (R46). -/
theorem opcField_toNat {PW : Nat} (w : Word PW) : (opcField w).toNat = w.toNat % 256 := by
  simp [opcField]

/-- RSV as a number (R46). -/
theorem rsvField_toNat (c : Config.Params) (w : Word c.PW) :
    (rsvField w).toNat = w.toNat / 256 := by
  have h := w.isLt
  have hc := c.legal
  rw [rsvField, BitVec.extractLsb'_toNat, Nat.shiftRight_eq_div_pow]
  refine Nat.mod_eq_of_lt ((Nat.div_lt_iff_lt_mul (by decide)).2 ?_)
  rwa [← pow_add, show 2 * c.PW - 8 + 8 = 2 * c.PW by omega]

/-- The scalar values in the form of `IsScalar` (R96). -/
theorem not_validScalar_iff (v : Nat) : validScalar v = false ↔ ¬IsScalar v := by
  unfold validScalar IsScalar
  simp
  omega

/-- BUILD's checks pass exactly on admitted operands (R66). -/
theorem admitted_iff (PW : Nat) (m : Mode) (p q : Nat) :
    Admitted PW m p q ↔ ¬(p ≥ 2 ^ PW ∨ q ≥ 2 ^ PW) ∧ ¬(p = 0 ∨ q = 0) ∧ ¬(p = 1 ∧ q = 1) ∧
      ¬(m = .strict ∧ (p = 1 ∨ q = 1)) := by
  unfold Admitted
  generalize 2 ^ PW = x
  cases m <;> simp <;> omega

/-- The checks of R87 pass on a ready block. -/
theorem cipherChecks_of_ready {PW : Nat} {m : Mode} {b : Block PW} (h : CipherReady m b) :
    cipherChecks m b = none := by
  simp [cipherChecks, h.1]
  exact h.2

end Sys2Proof.Machine
end

