-- ==== Sys2Proof/Laws/PerInstr.lean ====
section
/-! SUPPORT. Laws of every command as syntax, one lemma per constructor. -/

namespace Sys2Proof.Laws.EncodeShape

/-- A command is well formed, and its word is its opcode with RSV = 0, at every width (R46, R47). -/
def Statement (i : Instr) : Prop :=
  i.wellFormed = true ∧ ∀ c : Config.Params,
    (encode c.PW i).toNat = (opcode i).toNat ∧ wordWellFormed (encode c.PW i) = true

/-- The shape follows from the opcode's own range. -/
theorem of_opcode {i : Instr} (hw : i.wellFormed = true)
    (h : 1 ≤ (opcode i).toNat ∧ (opcode i).toNat ≤ 4) : Statement i := by
  refine ⟨hw, fun c => ?_⟩
  have ht : (encode c.PW i).toNat = (opcode i).toNat := by
    rw [encode, BitVec.toNat_setWidth]
    exact Nat.mod_eq_of_lt (Machine.lt_width c (by omega))
  refine ⟨ht, ?_⟩
  simp only [wordWellFormed, ht, Bool.and_eq_true, decide_eq_true_eq]
  omega

theorem build : Statement .build := of_opcode rfl (by decide)
theorem genkey : Statement .genkey := of_opcode rfl (by decide)
theorem enc : Statement .enc := of_opcode rfl (by decide)
theorem dec : Statement .dec := of_opcode rfl (by decide)

end Sys2Proof.Laws.EncodeShape
end

