-- ==== Sys2Proof/Laws/Runs.lean ====
section
/-! SUPPORT. Steps and runs of a host program: an access, a round of `wait`, how runs go on one after
another, and what the host takes from its reads. -/

namespace Sys2Proof.Machine

/-- A step in which the host makes an access. -/
theorem step_access {s : State} {t : Transaction s.params.PW} {ops : List (HostOp s.params.PW)}
    (h : AccessNext s t ops) :
    step s = .next (hostAccess ((s.setSchedule s.schedule.tail).setProgram ops) t) := by
  rw [step_host h.1, hostTurn]
  simp [h.2]

/-- A step in which the host makes a round of `wait`. -/
theorem step_poll {s : State} {ops : List (HostOp s.params.PW)} (h : s.nextTurn = .host)
    (hp : s.program = .poll :: ops) :
    step s = .next { s with
      schedule := s.schedule.tail
      program := if s.block.busy then .poll :: ops else ops
      readLog := (slotOf .status, s.block.hostRead (slotOf .status)) :: s.readLog } := by
  rw [step_host h, hostTurn]
  simp [hp, pollRound, hostAccess, ← statusRead_busy s.params.legal]

/-- A step in which the sequencer completes a command. -/
theorem step_completion {s : State} {w : Word s.params.PW} {m : Mode} {i : Instr}
    (ht : s.nextTurn = .sequencer) (h : s.block.seq = .busy w m) (hd : decode w = .ok i) :
    step s = exec i (s.setSchedule s.schedule.tail) :=
  (step_sequencer ht).trans (sequencerTurn_ok (s := s.setSchedule s.schedule.tail) h hd)

/-- Every step answers a next state. -/
theorem step_total (s : State) : ∃ t, step s = .next t := by
  rcases step_cases s with ⟨-, h⟩ | ⟨-, h⟩ | ⟨-, ⟨-, h⟩ | ⟨w, m, hb, ⟨r, -, h⟩ | ⟨i, -, h⟩⟩⟩
  all_goals first | exact ⟨_, h⟩ | skip
  obtain ⟨b, hb', -⟩ := exec_busy (s := s.setSchedule s.schedule.tail) hb i
  exact ⟨_, h.trans hb'⟩

/-- A run's first step. -/
theorem run_succ {k : Nat} {s t : State} (h : step s = .next t) :
    Host.Core.run Sys2Proof.core (k + 1) s = Host.Core.run Sys2Proof.core k t := by
  have h' : Sys2Proof.core.step s = .next t := h
  simp only [Host.Core.run, h']

/-- A run of one step. -/
theorem run_one {s t : State} (h : step s = .next t) :
    Host.Core.run Sys2Proof.core 1 s = .next t := run_succ h

/-- A run goes on where a shorter one has come to. -/
theorem run_append {k j : Nat} {s t : State} (h : Host.Core.run Sys2Proof.core k s = .next t) :
    Host.Core.run Sys2Proof.core (k + j) s = Host.Core.run Sys2Proof.core j t := by
  induction k generalizing s with
  | zero =>
    injection h with h
    rw [Nat.zero_add, h]
  | succ k ih =>
    obtain ⟨u, hu⟩ := step_total s
    rw [run_succ hu] at h
    rw [Nat.add_right_comm, run_succ hu, ih h]

/-! ### Results of a sequence operation -/

/-- A read that is not STATUS gives no element with the read after it. -/
theorem elementResults_of_ne_status {PW : Nat} {r : Addr × Word PW} (h : r.1 ≠ slotOf .status)
    (rs : List (Addr × Word PW)) : elementResults (r :: rs) = elementResults rs := by
  cases rs with
  | nil => rfl
  | cons r' rs => rw [elementResults, if_neg fun e => h e.1]

/-- A read before one that is not DOUT gives no element with it. -/
theorem elementResults_of_ne_dout {PW : Nat} {r' : Addr × Word PW} (h : r'.1 ≠ slotOf .dout)
    (r : Addr × Word PW) (rs : List (Addr × Word PW)) :
    elementResults (r :: r' :: rs) = elementResults (r' :: rs) := by
  rw [elementResults, if_neg fun e => h e.2]

/-- STATUS and then DOUT is one element's result. -/
theorem elementResults_element {PW : Nat} (st v : Word PW) (rs : List (Addr × Word PW)) :
    elementResults ((slotOf .status, st) :: (slotOf .dout, v) :: rs) =
      (if statusErr st = 0 then some v.toNat else none) :: elementResults rs := by
  rw [elementResults, if_pos ⟨rfl, rfl⟩, elementResults_of_ne_status (show slotOf .dout ≠ slotOf .status by decide)]

@[simp] theorem sequenceResult_nil : sequenceResult [] = .ok [] := rfl

@[simp] theorem sequenceResult_none (rs : List (Option Nat)) :
    sequenceResult (none :: rs) = .error 0 := rfl

/-- A valid element comes before the rest's results, or moves the place of the rest's failure on. -/
theorem sequenceResult_some (v : Nat) (rs : List (Option Nat)) :
    sequenceResult (some v :: rs) =
      match sequenceResult rs with
      | .ok vs => .ok (v :: vs)
      | .error k => .error (k + 1) := rfl

end Sys2Proof.Machine
end

