-- ==== Sys2Proof/Tests/Slice0.lean ====
section
/-! SUPPORT. The model's own tests: well-formedness smoke tests, the spec's command words bit by bit, one
or two single steps per command with the expected values of 95_test_vectors.md, and for every
statement with hypotheses a state and operands that meet them all. -/

namespace Sys2Proof.Tests

open Sys2Proof.Machine

/-! ### States -/

/-- The block after BUILD of (17, 19) (W1: N = 323, L = 144, E = 2, D = 1, STATUS 0x006). -/
def built : Block 32 :=
  { Block.reset 32 with
    pIn := 17, qIn := 19, p := 17, q := 19, n := 323, l := 144, e := 2, d := 1
    modValid := true, done := true }

/-- The block after GENKEY as well (W1: E = 5, D = 29, STATUS 0x00E). -/
def keyed : Block 32 := { built with e := 5, d := 29, keyValid := true }

/-- The PW = 32 instance of P7, keyed. -/
def wide : Block 32 :=
  { Block.reset 32 with
    pIn := 4294967291, qIn := 4294967279, p := 4294967291, q := 4294967279
    n := 18446743979220271189, l := 9223371985315168310, e := 3, d := 3074457328438389437
    modValid := true, keyValid := true, done := true }

/-- The instance (251, 257) of V4 rows 14 to 17, keyed. -/
def small : Block 32 :=
  { Block.reset 32 with
    pIn := 251, qIn := 257, p := 251, q := 257, n := 64507, l := 32000, e := 3, d := 10667
    modValid := true, keyValid := true, done := true }

/-- The instance (2, 3) of V2 rows 11 and 12, not keyed. -/
def degenerate : Block 32 :=
  { Block.reset 32 with
    pIn := 2, qIn := 3, p := 2, q := 3, n := 6, l := 2, e := 2, d := 1
    modValid := true, done := true }

/-- A block with what the host still does, and who takes the next steps. -/
def having (b : Block 32) (ops : List (HostOp 32)) (ts : List Turn) : State :=
  { params := Config.reference, block := b, program := ops, schedule := ts, readLog := [] }

/-- A block with a command word in flight. -/
def busyWith (b : Block 32) (w : Word 32) (m : Mode) : Block 32 :=
  { b with seq := .busy w m, done := false, err := .noError }

/-- A block with a command in flight, no host program and no schedule. -/
def inFlight (b : Block 32) (i : Instr) (m : Mode) : State :=
  having (busyWith b (encode 32 i) m) [] []

/-- A check of the next state; false of a fault or a refusal. -/
def next (o : Host.Outcome State Fault Refusal) (f : State → Bool) : Bool :=
  match o with
  | .next s => f s
  | .fault _ => false
  | .refused _ => false

/-- STATUS as a number. -/
def status (s : State) : Nat := (s.block.hostRead 0x1).toNat

/-! ### Well-formedness: what each check refuses (R5, R45, R46, R51, R53) -/

theorem test_width_below_16_refused : Config.legalWidth 15 = false := by decide
theorem test_value_of_65_bits_refused : (Value.num (2 ^ 64)).wellFormed 32 = false := by decide
theorem test_value_of_64_bits_accepted : (Value.num (2 ^ 64 - 1)).wellFormed 32 = true := by decide
theorem test_wr_wide_value_refused : (Line.wr .din (.num (2 ^ 64))).wellFormed 32 = false := by
  decide
theorem test_construct_wide_q_refused :
    (Line.construct (.num 17) (.num (2 ^ 64))).wellFormed 32 = false := by decide
theorem test_construct_wide_p_refused :
    (Line.construct (.num (2 ^ 64)) (.num 19)).wellFormed 32 = false := by decide
theorem test_enc1_wide_value_refused : (Line.enc1 (.num (2 ^ 64))).wellFormed 32 = false := by
  decide
theorem test_dec1_wide_value_refused : (Line.dec1 (.num (2 ^ 64))).wellFormed 32 = false := by
  decide
theorem test_encrypt_wide_value_refused :
    (Line.encrypt [.chr 'A', .num (2 ^ 64)]).wellFormed 32 = false := by decide
theorem test_decrypt_wide_value_refused :
    (Line.decrypt [.num (2 ^ 64)]).wellFormed 32 = false := by decide
theorem test_word_with_rsv_refused : wordWellFormed (0x101 : Word 32) = false := by decide
theorem test_word_zero_refused : wordWellFormed (0x0 : Word 32) = false := by decide
theorem test_word_opc5_refused : wordWellFormed (0x5 : Word 32) = false := by decide

/-! ### Command words, written out from R46 and R47: RSV (56 bits 0), then OPC -/

theorem test_decode_build_word :
    decode (0b0000000000000000000000000000000000000000000000000000000000000001 : Word 32) =
      .ok .build := by decide
theorem test_decode_genkey_word :
    decode (0b0000000000000000000000000000000000000000000000000000000000000010 : Word 32) =
      .ok .genkey := by decide
theorem test_decode_enc_word :
    decode (0b0000000000000000000000000000000000000000000000000000000000000011 : Word 32) =
      .ok .enc := by decide
theorem test_decode_dec_word :
    decode (0b0000000000000000000000000000000000000000000000000000000000000100 : Word 32) =
      .ok .dec := by decide
/-- V7 row 5. -/
theorem test_decode_top_rsv_bit :
    decode (0x8000000000000003 : Word 32) = .error .reservedBits := by decide
/-- V7 row 3. -/
theorem test_decode_reserved_opcode : decode (0xFF : Word 32) = .error .reservedOpcode := by decide
/-- R51 at PW = 16: the word is 32 bits. -/
theorem test_decode_at_pw16 :
    decode (0x00000004 : Word 16) = .ok .dec ∧ decode (0x80000004 : Word 16) = .error .reservedBits := by
  decide

/-! ### Single steps of the commands -/

/-- V1 row 18, P7. -/
theorem test_build_full_width :
    next (step (inFlight { built with pIn := 4294967291, qIn := 4294967279 } .build .strict))
      (fun s => s.block.n.toNat == 18446743979220271189 && s.block.l.toNat == 9223371985315168310 &&
        status s == 0x006) = true := by decide
/-- V1 row 12: STATUS 0x402, the registers keep their values. -/
theorem test_build_strict_refuses_one :
    next (step (inFlight { Block.reset 32 with pIn := 1, qIn := 5 } .build .strict))
      (fun s => s.block.n.toNat == 0 && s.block.e.toNat == 0 && status s == 0x402) = true := by decide
/-- V2 row 9. -/
theorem test_genkey_full_width :
    next (step (inFlight { wide with e := 2, d := 1, keyValid := false } .genkey .legacy))
      (fun s => s.block.e.toNat == 3 && s.block.d.toNat == 3074457328438389437 &&
        status s == 0x00E) = true := by decide
/-- V2 row 12. -/
theorem test_genkey_strict_degenerate :
    next (step (inFlight degenerate .genkey .strict))
      (fun s => s.block.e.toNat == 2 && s.block.d.toNat == 1 && status s == 0x506) = true := by decide
/-- V3 row 12. -/
theorem test_enc_legacy_above_n :
    next (step (inFlight { keyed with din := 400 } .enc .legacy))
      (fun s => s.block.dout.toNat == 229 && status s == 0x00E) = true := by decide
/-- V3 row 9: DOUT keeps its value. -/
theorem test_enc_strict_at_n :
    next (step (inFlight { keyed with din := 323, dout := 12 } .enc .strict))
      (fun s => s.block.dout.toNat == 12 && status s == 0x70E) = true := by decide
/-- V4 row 20. -/
theorem test_dec_full_width :
    next (step (inFlight { wide with din := 1382882836846149631 } .dec .strict))
      (fun s => s.block.dout.toNat == 0x10FFFF && status s == 0x00E) = true := by decide
/-- V4 row 14: the decrypted value is 0xD800. -/
theorem test_dec_surrogate :
    next (step (inFlight { small with din := 40137, dout := 7 } .dec .legacy))
      (fun s => s.block.dout.toNat == 7 && status s == 0x80E) = true := by decide

/-! ### The sub-units' values -/

/-- The small totients of V2's last table, with the boundary 2 and 3 of R75 and R77. -/
theorem test_searches_of_small_totients :
    [0, 1, 2, 3, 4, 5, 6, 7, 8, 12, 30].map
        (fun l => (findPublicExponent l, findPrivateExponent (findPublicExponent l) l)) =
      [(2, 1), (2, 1), (2, 1), (2, 2), (3, 3), (2, 3), (5, 5), (2, 4), (3, 3), (5, 5), (7, 13)] := by
  decide
/-- R83, the row of l = 780, by the algorithm the model runs. -/
theorem test_euclid_780 : privateExponent 7 780 = 223 := by decide
/-- V6, the row of all boundaries. -/
theorem test_valid_scalar_boundaries :
    [0x0, 0x7F, 0x80, 0xD7FF, 0xD800, 0xDBFF, 0xDC00, 0xDFFF, 0xE000, 0xFFFF, 0x10000, 0x10FFFF,
        0x110000, 2 ^ 64 - 1].map validScalar =
      [true, true, true, true, false, false, false, false, true, true, true, true, false, false] := by
  decide

/-! ### Single steps of the window -/

/-- V7 row 7. -/
theorem test_illegal_word_completes :
    next (step (having (busyWith keyed 0x101 .legacy) [] []))
      (fun s => s.block.n.toNat == 323 && s.block.d.toNat == 29 && status s == 0x10E) = true := by decide
/-- V9 row 6. -/
theorem test_ctrl_write_keeps_mode_only :
    next (step (having (Block.reset 32) [.access (.write 0x0 0xFFFFFFFFFFFFFFFF)] [.host]))
      (fun s => (s.block.hostRead 0x0).toNat == 1) = true := by decide
/-- V9 row 12. -/
theorem test_busy_cmd_write_dropped :
    next (step (having (busyWith built 0x1 .legacy) [.access (.write 0x2 0x2)] [.host]))
      (fun s => decide (s.block.seq = .busy (BitVec.ofNat _ 1) .legacy) && s.block.ovr) = true := by decide
/-- V9 row 13. -/
theorem test_busy_status_write_honoured :
    next (step (having { busyWith built 0x1 .legacy with ovr := true } [.access (.write 0x1 0x10)] [.host]))
      (fun s => !s.block.ovr && s.block.busy) = true := by decide
/-- V9 row 17: STATUS = 0x00D at issue. -/
theorem test_issue_clears_done_and_err :
    next (step (having { keyed with err := .codepointOverflow } [.access (.write 0x2 0x3)] [.host]))
      (fun s => status s == 0x00D) = true := by decide
/-- V9 row 16: a read of STATUS returns 0x00E and changes nothing. -/
theorem test_status_read :
    next (step (having keyed [.access (.read 0x1)] [.host]))
      (fun s => decide (s.readLog = [(0x1, BitVec.ofNat _ 0x00E)]) && status s == 0x00E) = true := by decide
/-- V10 row 2. -/
theorem test_reset_abandons_build :
    next (step (having (busyWith { keyed with pIn := 61, qIn := 53 } 0x1 .strict) [] [.reset]))
      (fun s => decide (s = having (Block.reset 32) [] [])) = true := by decide
/-- The first step from reset with GENKEY put in flight (V10 row 3: STATUS 0x202). -/
theorem test_fetch_word_runs_first :
    next (step (State.reset.withFetchWord 64 0x2)) (fun s => status s == 0x202) = true := by decide
/-- R54's loop in IDLE: one read, and the loop is over. -/
theorem test_wait_in_idle :
    next (step (having keyed [.poll] []))
      (fun s => decide (s.readLog = [(0x1, BitVec.ofNat _ 0x00E)]) && s.program.isEmpty) = true := by
  decide
/-- R54's loop with a command in flight: STATUS[0] = 1, so it goes round again. -/
theorem test_wait_while_busy :
    next (step (having (busyWith keyed 0x1 .legacy) [.poll] [.host]))
      (fun s => decide (s.readLog = [(0x1, BitVec.ofNat _ 0x00D)]) && s.program.length == 1) = true := by
  decide
/-- R54: the elements of P3 from STRICT, with one poll while the second is in flight: 21, 22, and the
failed third. -/
theorem test_sequence_results :
    elementResults (PW := 32) [(0x1, 0x00E), (0x1, 0x00E), (0xC, 0x15), (0x1, 0x00D), (0x1, 0x00E),
        (0x1, 0x00E), (0xC, 0x16), (0x1, 0x70E), (0x1, 0x70E), (0xC, 0x16)] =
      [some 21, some 22, none] := by decide
/-- R92: the sequence has the results in order, or has failed at the first element that did. -/
theorem test_sequence_result :
    (match sequenceResult [some 21, some 22], sequenceResult [some 21, some 22, none, some 3] with
      | .ok vs, .error k => vs == [21, 22] && k == 2
      | _, _ => false) = true := by decide
/-- P1: the listing of `wr P_IN, 17`. -/
theorem test_listing_of_write :
    (listing (.write 0x3 17 : Transaction 32) == "W 3 0000000000000011".toList) = true := by decide
/-- P1: `wr DIN, 'A'` is `W B 0000000000000041`. -/
theorem test_character_literal :
    expand 32 (.wr .din (.chr 'A')) = [.access (.write 0xB 0x41)] := by decide

/-! ### Hypotheses that can be met: one state for each statement that has some -/

theorem keyed_inv : (having keyed [] []).Inv :=
  { instance_built := fun _ =>
      { n_ge := by decide, n_eq := by decide, l_eq := by decide, p_ge := by decide, p_lt := by decide
        q_ge := by decide, q_lt := by decide, not_both_one := by decide, sentinels := by decide
        keys := by decide }
    no_instance := fun h => by cases h
    busy_clear := by decide
    err_done := by decide }

/-- The invariant says nothing of MODE. -/
theorem inv_mode {b : Block 32} (h : b.Inv) (m : Mode) : ({ b with mode := m } : Block 32).Inv :=
  { instance_built := fun hv =>
      let i := h.instance_built hv
      { n_ge := i.n_ge, n_eq := i.n_eq, l_eq := i.l_eq, p_ge := i.p_ge, p_lt := i.p_lt
        q_ge := i.q_ge, q_lt := i.q_lt, not_both_one := i.not_both_one, sentinels := i.sentinels
        keys := i.keys }
    no_instance := fun hv =>
      let i := h.no_instance hv
      { keyValid := i.keyValid, p := i.p, q := i.q, n := i.n, l := i.l, e := i.e, d := i.d
        dout := i.dout }
    busy_clear := h.busy_clear
    err_done := h.err_done }

/-- The invariant says nothing of a command in flight but that STATUS is clear. -/
theorem inv_busyWith {b : Block 32} (h : b.Inv) (w : Word 32) (m : Mode) : (busyWith b w m).Inv :=
  { instance_built := fun hv =>
      let i := h.instance_built hv
      { n_ge := i.n_ge, n_eq := i.n_eq, l_eq := i.l_eq, p_ge := i.p_ge, p_lt := i.p_lt
        q_ge := i.q_ge, q_lt := i.q_lt, not_both_one := i.not_both_one, sentinels := i.sentinels
        keys := i.keys }
    no_instance := fun hv =>
      let i := h.no_instance hv
      { keyValid := i.keyValid, p := i.p, q := i.q, n := i.n, l := i.l, e := i.e, d := i.d
        dout := i.dout }
    busy_clear := fun _ => ⟨rfl, rfl⟩
    err_done := fun hne => absurd rfl hne }

theorem witness_build_admitted_strict : ∃ (s : State) (w : Word s.params.PW),
    s.block.seq = .busy w .strict ∧
      Admitted s.params.PW .strict s.block.pIn.toNat s.block.qIn.toNat :=
  ⟨inFlight built .build .strict, encode 32 .build, rfl, by unfold Admitted; decide⟩
/-- V1 row 10, and the largest operands (V1 row 18's bound). -/
theorem witness_build_admitted_legacy : ∃ (s : State) (w : Word s.params.PW),
    s.block.seq = .busy w .legacy ∧
      Admitted s.params.PW .legacy s.block.pIn.toNat s.block.qIn.toNat :=
  ⟨inFlight { built with pIn := 1, qIn := 0xFFFFFFFF } .build .legacy, encode 32 .build, rfl,
    by unfold Admitted; decide⟩
/-- Each clause of R66 at its boundary: `2^PW` (twice), 0 (twice), 1 and 1, 1 in STRICT. -/
theorem witness_build_refused : ∀ pq ∈ [(2 ^ 32, 3), (3, 2 ^ 32), (0, 7), (7, 0), (1, 1)],
    ∃ (s : State) (w : Word s.params.PW), s.block.seq = .busy w .legacy ∧
      s.block.pIn.toNat = pq.1 ∧ s.block.qIn.toNat = pq.2 := by
  intro pq h
  refine ⟨inFlight { built with pIn := BitVec.ofNat _ pq.1, qIn := BitVec.ofNat _ pq.2 } .build .legacy,
    encode 32 .build, rfl, ?_⟩
  revert pq
  decide
theorem witness_build_refused_strict : ∃ (s : State) (w : Word s.params.PW),
    s.block.seq = .busy w .strict ∧ s.block.pIn.toNat = 1 ∧ s.block.qIn.toNat = 2 :=
  ⟨inFlight { built with pIn := 1, qIn := 2 } .build .strict, encode 32 .build, rfl, rfl, rfl⟩

/-- L = 3 is the least totient that STRICT accepts; 144 is the scenario's. -/
theorem witness_genkey : ∃ (s : State) (w : Word s.params.PW), s.block.seq = .busy w .strict ∧
    s.block.modValid = true ∧ 3 ≤ s.block.l.toNat :=
  ⟨inFlight { built with l := 3 } .genkey .strict, encode 32 .genkey, rfl, rfl, by decide⟩
theorem witness_genkey_not_constructed : ∃ (s : State) (w : Word s.params.PW),
    s.block.seq = .busy w .strict ∧ s.block.modValid = false :=
  ⟨inFlight (Block.reset 32) .genkey .strict, encode 32 .genkey, rfl, rfl⟩
theorem witness_genkey_degenerate : ∀ m, ∃ (s : State) (w : Word s.params.PW),
    s.block.seq = .busy w m ∧ s.block.modValid = true ∧ s.block.l.toNat ≤ 2 := fun m =>
  ⟨inFlight degenerate .genkey m, encode 32 .genkey, rfl, rfl, Nat.le_of_eq rfl⟩
theorem witness_genkey_idempotent : ∃ (s : State) (w : Word s.params.PW) (b : Block s.params.PW),
    s.block.seq = .busy w .legacy ∧ exec .genkey s = .next (s.setBlock b) :=
  ⟨inFlight built .genkey .legacy, encode 32 .genkey, _, rfl, rfl⟩

/-- In STRICT, at the boundary DIN = N - 1. -/
theorem witness_enc : ∃ (s : State) (w : Word s.params.PW), s.block.seq = .busy w .strict ∧
    CipherReady .strict s.block ∧ IsScalar s.block.din.toNat ∧
      s.block.din.toNat < s.block.n.toNat :=
  ⟨inFlight { keyed with din := 322 } .enc .strict, encode 32 .enc, rfl,
    by unfold CipherReady; decide, by unfold IsScalar; decide, by decide⟩
/-- In LEGACY with the sentinel keys, at the boundary DIN = N. -/
theorem witness_enc_legacy : ∃ (s : State) (w : Word s.params.PW), s.block.seq = .busy w .legacy ∧
    CipherReady .legacy s.block ∧ IsScalar s.block.din.toNat :=
  ⟨inFlight { built with din := 323 } .enc .legacy, encode 32 .enc, rfl,
    by unfold CipherReady; decide, by unfold IsScalar; decide⟩
theorem witness_cipher_not_constructed : ∃ (s : State) (w : Word s.params.PW),
    s.block.seq = .busy w .legacy ∧ s.block.modValid = false :=
  ⟨inFlight (Block.reset 32) .enc .legacy, encode 32 .enc, rfl, rfl⟩
theorem witness_cipher_not_keyed : ∃ (s : State) (w : Word s.params.PW),
    s.block.seq = .busy w .strict ∧ s.block.modValid = true ∧ s.block.keyValid = false :=
  ⟨inFlight built .dec .strict, encode 32 .dec, rfl, rfl, rfl⟩
/-- The four boundaries outside the scalar values (R100). -/
theorem witness_enc_invalid_char : ∀ v ∈ [0xD800, 0xDFFF, 0x110000, 2 ^ 64 - 1],
    ∃ (s : State) (w : Word s.params.PW), s.block.seq = .busy w .strict ∧
      CipherReady .strict s.block ∧ s.block.din.toNat = v ∧ ¬IsScalar s.block.din.toNat := by
  intro v h
  refine ⟨inFlight { keyed with din := BitVec.ofNat _ v } .enc .strict, encode 32 .enc, rfl,
    ⟨rfl, fun _ => rfl⟩, ?_⟩
  revert v
  unfold IsScalar
  decide
/-- DIN = N. -/
theorem witness_enc_overflow : ∃ (s : State) (w : Word s.params.PW),
    s.block.seq = .busy w .strict ∧ CipherReady .strict s.block ∧ IsScalar s.block.din.toNat ∧
      s.block.n.toNat ≤ s.block.din.toNat :=
  ⟨inFlight { keyed with din := 323 } .enc .strict, encode 32 .enc, rfl,
    by unfold CipherReady; decide, by unfold IsScalar; decide, by decide⟩
/-- W2: 12 decrypts to 65. -/
theorem witness_dec : ∃ (s : State) (w : Word s.params.PW), s.block.seq = .busy w .strict ∧
    CipherReady .strict s.block ∧
      IsScalar (s.block.din.toNat ^ s.block.d.toNat % s.block.n.toNat) :=
  ⟨inFlight { keyed with din := 12 } .dec .strict, encode 32 .dec, rfl,
    by unfold CipherReady; decide, by unfold IsScalar; decide⟩
/-- V4 row 14 without GENKEY's key: D = 1, so 0xD800 stays 0xD800 (LEGACY, N = 64507). -/
theorem witness_dec_invalid_scalar : ∃ (s : State) (w : Word s.params.PW),
    s.block.seq = .busy w .legacy ∧ CipherReady .legacy s.block ∧
      ¬IsScalar (s.block.din.toNat ^ s.block.d.toNat % s.block.n.toNat) :=
  ⟨inFlight { small with d := 1, keyValid := false, din := 0xD800 } .dec .legacy, encode 32 .dec, rfl,
    by unfold CipherReady; decide, by unfold IsScalar; decide⟩
theorem witness_cipher_in_range : ∃ s t : State, s.Inv ∧ exec .dec s = .next t ∧
    t.block.err = .noError :=
  ⟨inFlight keyed .dec .strict, _, inv_busyWith keyed_inv _ _, rfl, by decide⟩
theorem witness_cipher_in_range_enc : ∃ s t : State, s.Inv ∧ exec .enc s = .next t ∧
    t.block.err = .noError :=
  ⟨inFlight keyed .enc .strict, _, inv_busyWith keyed_inv _ _, rfl, by decide⟩
theorem witness_round_trip : ∃ s : State, s.Inv ∧ s.block.modValid = true ∧ s.block.keyValid = true ∧
    Nat.Prime s.block.p.toNat ∧ Nat.Prime s.block.q.toNat ∧ s.block.p.toNat ≠ s.block.q.toNat ∧
      3 ≤ s.block.l.toNat ∧ IsScalar s.block.din.toNat ∧ s.block.din.toNat < s.block.n.toNat :=
  ⟨having keyed [] [], keyed_inv, rfl, rfl, by show Nat.Prime 17; norm_num,
    by show Nat.Prime 19; norm_num, by decide, by decide, by unfold IsScalar; decide, by decide⟩

/-- Every command has a completion to speak of (frames, errors). -/
theorem witness_exec_next : ∀ i : Instr, ∃ s t : State, exec i s = .next t := by
  intro i
  cases i
  all_goals exact ⟨inFlight keyed .build .legacy, _, rfl⟩
theorem witness_exec_next_legacy : ∃ (s t : State) (w : Word s.params.PW),
    s.block.seq = .busy w .legacy ∧ exec .enc s = .next t :=
  ⟨inFlight keyed .enc .legacy, _, encode 32 .enc, rfl, rfl⟩
theorem witness_failed_command : ∃ s t : State, exec .genkey s = .next t ∧ t.block.err ≠ .noError :=
  ⟨inFlight (Block.reset 32) .genkey .legacy, _, rfl, by decide⟩
theorem witness_busy_and_idle : (inFlight built .enc .legacy).block.busy = true ∧
    State.reset.block.busy = false := by decide

/-- With no turn left, and with a turn of the schedule. -/
theorem witness_step_runs : ∀ ts ∈ [[], [Turn.sequencer, .reset]],
    ∃ (s : State) (w : Word s.params.PW) (m : Mode) (i : Instr),
      s.block.seq = .busy w m ∧ decode w = .ok i ∧ i.wellFormed = true ∧ SequencerNext s ∧
        s.schedule = ts := by
  intro ts h
  have hd : decode (0x2 : Word 32) = .ok .genkey := by decide
  refine ⟨having (busyWith built 0x2 .strict) [] ts, BitVec.ofNat 64 2, .strict, .genkey, rfl, hd, rfl, ?_,
    rfl⟩
  revert ts
  unfold SequencerNext
  decide
/-- The two boundaries of the words whose RSV is 0, and the least word whose RSV is not. -/
theorem witness_illegal_word : ∀ k : Fin 3, ∃ (s : State) (w : Word s.params.PW),
    s.block.seq = .busy w .legacy ∧ SequencerNext s ∧ w.toNat = [0, 5, 256].get k := by
  intro k
  refine ⟨having (busyWith built (BitVec.ofNat 64 ([0, 5, 256].get k)) .legacy) [] [],
    BitVec.ofNat 64 ([0, 5, 256].get k), rfl, rfl, ?_⟩
  revert k
  decide
theorem witness_idle_turn : ∃ s t : State, s.block.seq = .idle ∧ SequencerNext s ∧
    t.block.seq = .idle ∧ t.nextTurn = .host ∧ t.program = [] :=
  ⟨having built [] [.sequencer], having built [] [], rfl, rfl, rfl, rfl, rfl⟩
/-- A write of any slot, in IDLE and in flight. -/
theorem witness_host_write : ∀ a : Addr, ∃ (s t : State) (v : Word s.params.PW)
    (v' : Word t.params.PW),
    s.block.seq = .idle ∧ AccessNext s (.write a v) [] ∧
      t.block.busy = true ∧ AccessNext t (.write a v') [] := fun a =>
  ⟨having keyed [.access (.write a 0x13)] [],
    having (busyWith keyed 0x1 .legacy) [.access (.write a 0x13)] [.host],
    BitVec.ofNat 64 0x13, BitVec.ofNat 64 0x13, rfl, ⟨rfl, rfl⟩, rfl, ⟨rfl, rfl⟩⟩
theorem witness_host_read : ∃ s : State, AccessNext s (.read 0xC) [] :=
  ⟨having keyed [.access (.read 0xC)] [], rfl, rfl⟩
/-- OVR set, and a STATUS write whose bit 4 is 0. -/
theorem witness_ovr_sticky : ∃ s t : State, step s = .next t ∧ s.block.ovr = true ∧ ¬ResetNext s ∧
    (∃ v, AccessNext s (.write 0x1 v) []) ∧
      ∀ v ops, AccessNext s (.write 0x1 v) ops → v.toNat / 16 % 2 = 0 := by
  refine ⟨having { keyed with ovr := true } [.access (.write 0x1 0x0F)] [], _, rfl, rfl,
    by unfold ResetNext; decide, ⟨BitVec.ofNat 64 0x0F, rfl, rfl⟩, ?_⟩
  rintro v ops ⟨-, h⟩
  have h' : [HostOp.access (.write (0x1 : Addr) (0x0F : Word 32))] = .access (.write 0x1 v) :: ops := h
  injection h' with h'
  injection h' with h'
  injection h' with _ hv
  subst hv
  decide
theorem witness_ovr_set : ∃ s t : State, step s = .next t ∧ s.block.ovr = false ∧ t.block.ovr = true :=
  ⟨having (busyWith keyed 0x1 .legacy) [.access (.write 0xB 0x41)] [.host], _, rfl, rfl, by decide⟩
theorem witness_reset_turn : ∃ s : State, ResetNext s := ⟨having keyed [] [.reset], rfl⟩
/-- For each of the four registers: in IDLE, a host write to the slot after its own. -/
theorem witness_write_elsewhere : ∀ a ∈ [(0x3 : Addr), 0x4, 0xB, 0x0], ∃ s t : State,
    step s = .next t ∧ ¬ResetNext s ∧ s.block.busy = false ∧ ¬WriteNext s a ∧
      WriteNext s (a + 1) := by
  intro a _
  have ha : ∀ a : Addr, a + 1 ≠ a := by decide
  refine ⟨having keyed [.access (.write (a + 1) 0x13)] [], _, step_host rfl, fun h => ?_, rfl, ?_,
    BitVec.ofNat 64 0x13, [], rfl, rfl⟩
  · cases (h : Turn.host = Turn.reset)
  rintro ⟨v, ops, -, h⟩
  have h' : [HostOp.access (.write (a + 1) (0x13 : Word 32))] = .access (.write a v) :: ops := h
  injection h' with h'
  injection h' with h'
  injection h' with h' _
  exact ha a h'
/-- A step that is neither a reset nor a completion of BUILD, GENKEY, ENC or DEC, while a command is in
flight. -/
theorem witness_other_step : ∃ s t : State, step s = .next t ∧ ¬ResetNext s ∧
    (∀ i, ¬Completes s i) ∧ s.block.busy = true := by
  refine ⟨having (busyWith keyed 0x1 .legacy) [.access (.read 0xC)] [.host], _, rfl,
    by unfold ResetNext; decide, ?_, rfl⟩
  rintro i ⟨h, -⟩
  revert h
  unfold SequencerNext
  decide
/-- A completion of GENKEY is not one of BUILD. -/
theorem witness_genkey_completes : Completes (inFlight built .genkey .legacy) .genkey ∧
    ¬Completes (inFlight built .genkey .legacy) .build := by
  refine ⟨⟨rfl, encode 32 .genkey, .legacy, rfl, by decide⟩, ?_⟩
  rintro ⟨-, w, m, hs, hd⟩
  have h' : (Seq.busy (encode 32 .genkey) Mode.legacy : Seq 32) = .busy w m := hs
  injection h' with hw
  subst hw
  revert hd
  decide
theorem witness_fetch_word : ∀ i : Instr, ∃ (s : State) (nbits w : Nat),
    decode (BitVec.ofNat (2 * s.params.PW) (w % 2 ^ nbits)) = .ok i := by
  intro i
  refine ⟨State.reset, 64, (opcode i).toNat, ?_⟩
  cases i <;> decide
theorem witness_step_inv : ∃ s t : State, s.Inv ∧ step s = .next t :=
  ⟨inFlight keyed .genkey .strict, _, inv_busyWith keyed_inv _ _, rfl⟩
theorem witness_keyed : ∃ s : State, s.Inv ∧ s.block.modValid = true ∧ s.block.keyValid = true ∧
    3 ≤ s.block.l.toNat := ⟨having keyed [] [], keyed_inv, rfl, rfl, by decide⟩
/-- Two keyed instances of (17, 19), one with a command in flight. -/
theorem witness_same_primes : ∃ s t : State, s.Inv ∧ t.Inv ∧
    s.block.modValid = true ∧ s.block.keyValid = true ∧
    t.block.modValid = true ∧ t.block.keyValid = true ∧
    s.block.p.toNat = t.block.p.toNat ∧ s.block.q.toNat = t.block.q.toNat ∧
    s.block.busy ≠ t.block.busy :=
  ⟨having keyed [] [], inFlight keyed .enc .strict, keyed_inv, inv_busyWith keyed_inv _ _, rfl, rfl,
    rfl, rfl, rfl, rfl, by decide⟩
theorem witness_modulus : ∃ m : Nat, 1 ≤ m := ⟨1, le_rfl⟩
theorem witness_interleaving : ∃ (s : State) (w : Word s.params.PW) (m : Mode),
    s.block.seq = .busy w m ∧ s.program.length = 2 :=
  ⟨having (busyWith built 0x2 .legacy) [.access (.write 0xB 5), .poll] [], BitVec.ofNat 64 2, .legacy, rfl,
    rfl⟩
theorem witness_liveness : ∃ s : State, s.block.busy = true ∧ .reset ∉ s.schedule ∧
    s.schedule.length = 1 :=
  ⟨having (busyWith built 0x2 .legacy) [.poll] [.host], rfl, by
    show Turn.reset ∉ [Turn.host]
    decide, rfl⟩
/-- P3's message in STRICT, with the host polling while the first command is in flight. -/
theorem witness_encrypt_sequence : ∃ (s : State) (cs : List Value), s.Inv ∧ s.block.seq = .idle ∧
    s.block.mode = .strict ∧ .reset ∉ s.schedule ∧ s.program = expand s.params.PW (.encrypt cs) ∧
      (∀ c ∈ cs, EncPasses s.block.mode s.block c.toNat) ∧ cs.length = 2 :=
  ⟨having { keyed with mode := .strict } (expand 32 (.encrypt [.chr 'H', .chr 'i']))
      [.host, .host, .host, .host, .sequencer], [.chr 'H', .chr 'i'],
    inv_mode keyed_inv .strict, rfl, rfl, by
    show Turn.reset ∉ [Turn.host, .host, .host, .host, .sequencer]
    decide, rfl, by unfold EncPasses CipherReady IsScalar; decide, rfl⟩
/-- In LEGACY, at the boundary: codepoint N. -/
theorem witness_enc_passes_legacy : EncPasses .legacy keyed 323 ∧ ¬EncPasses .strict keyed 323 ∧
    EncPasses .strict keyed 322 := by
  unfold EncPasses CipherReady IsScalar
  decide
/-- P3's ciphertexts. -/
theorem witness_decrypt_sequence : ∃ (s : State) (vs : List Value), s.Inv ∧ s.block.seq = .idle ∧
    .reset ∉ s.schedule ∧ s.program = expand s.params.PW (.decrypt vs) ∧
      (Line.decrypt vs).wellFormed s.params.PW = true ∧
      (∀ v ∈ vs, DecPasses s.block.mode s.block v.toNat) ∧ vs.length = 2 :=
  ⟨having keyed (expand 32 (.decrypt [.num 21, .num 22])) [], [.num 21, .num 22], keyed_inv, rfl, by
    show Turn.reset ∉ []
    decide, rfl, by decide, by unfold DecPasses CipherReady IsScalar; decide, rfl⟩
/-- P3's `'H'`, `'i'` and 400 in STRICT: the third does not pass. -/
theorem witness_sequence_fails_enc : ∃ (s : State) (good : List Value) (bad : Value), s.Inv ∧
    s.block.seq = .idle ∧ .reset ∉ s.schedule ∧
      s.program = expand s.params.PW (.encrypt (good ++ [bad])) ∧
      (Line.encrypt (good ++ [bad])).wellFormed s.params.PW = true ∧
      (∀ c ∈ good, EncPasses s.block.mode s.block c.toNat) ∧
      ¬EncPasses s.block.mode s.block bad.toNat ∧ good.length = 2 :=
  ⟨having { keyed with mode := .strict } (expand 32 (.encrypt [.chr 'H', .chr 'i', .num 400])) [],
    [.chr 'H', .chr 'i'], .num 400,
    inv_mode keyed_inv .strict, rfl, by
    show Turn.reset ∉ []
    decide, rfl, by decide, by unfold EncPasses CipherReady IsScalar; decide,
    by unfold EncPasses CipherReady IsScalar; decide, rfl⟩
/-- The instance of V4 row 14 without GENKEY's key, in LEGACY: D = 1, so 65 passes and 0xD800 does not. -/
theorem witness_sequence_fails_dec : ∃ b : Block 32, DecPasses .legacy b 65 ∧ ¬DecPasses .legacy b 0xD800 :=
  ⟨{ small with d := 1, keyValid := false }, by unfold DecPasses CipherReady IsScalar; decide,
    by unfold DecPasses CipherReady IsScalar; decide⟩
theorem witness_construct_sequence : ∃ (s : State) (p q : Value), s.block.seq = .idle ∧
    Admitted s.params.PW s.block.mode p.toNat q.toNat ∧ .reset ∉ s.schedule ∧
      s.program = expand s.params.PW (.construct p q) :=
  ⟨having keyed (expand 32 (.construct (.num 61) (.num 53))) [.sequencer], .num 61, .num 53, rfl,
    by unfold Admitted; decide, by show Turn.reset ∉ [Turn.sequencer]; decide, rfl⟩
theorem witness_wait : ∃ s : State, s.program = [.poll] ∧ s.nextTurn = .host ∧ s.block.busy = true ∧
    .reset ∉ s.schedule :=
  ⟨having (busyWith built 0x2 .legacy) [.poll] [.host], rfl, rfl, rfl, by
    show Turn.reset ∉ [Turn.host]
    decide⟩
/-- The state in which a run of no step or of one has just performed a program. -/
theorem performed_after_one {s v : State} {lines : List Line} {later : Nat}
    (h : step (s.withProgram lines later) = .next v) (hv : v.program.length ≤ later)
    (hs : later < (s.withProgram lines later).program.length) : ProgramPerformed s lines later v := by
  refine ⟨1, run_one h, hv, ?_⟩
  intro i hi x hx
  obtain rfl : i = 0 := by omega
  have h' : Host.Outcome.next (s.withProgram lines later) =
    (Host.Outcome.next x : Host.Outcome State Fault Refusal) := hx
  injection h' with h'
  rwa [← h']
/-- A run of one read, and one later read that ends it. -/
theorem witness_run_ends : ∃ s t : State, RunEndsIn s [.rd .status] 1 t :=
  ⟨having keyed [] [], _, _, performed_after_one (step_access ⟨rfl, rfl⟩) (by decide) (by decide), rfl, 0, _,
    rfl, ⟨⟨[], rfl, rfl⟩, step_access ⟨rfl, rfl⟩, by decide⟩, fun j hj => absurd hj (by omega)⟩
/-- A program whose last line is `cmd BUILD` ends with BUSY = 1. -/
theorem witness_program_ends_busy : ∃ s v : State, ProgramPerformed s [.cmd .build] 1 v ∧
    v.block.busy = true :=
  ⟨having built [] [], _, performed_after_one (step_access ⟨rfl, rfl⟩) (by decide) (by decide), by decide⟩
/-- A program whose last line is a read ends with BUSY = 0, and no reset follows. -/
theorem witness_program_ends_idle : ∃ s v : State, ProgramPerformed s [.rd .dout] 1 v ∧
    v.block.busy = false ∧ .reset ∉ v.schedule :=
  ⟨having keyed [] [.host, .sequencer], _,
    performed_after_one (step_access ⟨rfl, rfl⟩) (by decide) (by decide), rfl, by
      show Turn.reset ∉ [Turn.sequencer]
      decide⟩

end Sys2Proof.Tests
end

section
/-! PROOFS. An admitted BUILD: its whole next state, and its results as exact numbers (R6, R68). -/

namespace Sys2Proof.Machine

/-- The product of admitted operands is no smaller than 2 (R69). -/
theorem Admitted.two_le_mul {PW p q : Nat} {m : Mode} (h : Admitted PW m p q) : 2 ≤ p * q := by
  obtain ⟨-, -, hp, hq, hpq, -⟩ := h
  by_cases hp1 : p = 1
  · subst hp1
    omega
  · exact le_mul_of_le_of_one_le (by omega) hq

/-- On admitted operands every check of R66 passes, and BUILD writes the instance. -/
theorem buildCommand_of_admitted {PW : Nat} {m : Mode} {b : Block PW}
    (h : Admitted PW m b.pIn.toNat b.qIn.toNat) :
    buildCommand PW m b = .ok (b.writeInstance (b.pIn.toNat * b.qIn.toNat)
      (Nat.lcm (b.pIn.toNat - 1) (b.qIn.toNat - 1))) := by
  obtain ⟨hrange, hzero, hone, hstrict⟩ := (admitted_iff PW m _ _).1 h
  simp only [buildCommand, if_neg hrange, if_neg hzero, if_neg hone, if_neg hstrict]
  rfl

/-- An admitted BUILD in flight completes without error on the instance it writes (R68, R103). -/
theorem exec_build_of_admitted {s : State} {w : Word s.params.PW} {m : Mode}
    (hseq : s.block.seq = .busy w m)
    (h : Admitted s.params.PW m s.block.pIn.toNat s.block.qIn.toNat) :
    exec .build s = .next (s.setBlock (s.block.writeInstance
      (s.block.pIn.toNat * s.block.qIn.toNat)
      (Nat.lcm (s.block.pIn.toNat - 1) (s.block.qIn.toNat - 1))).succeed) := by
  have hexec : exec .build s = complete buildCommand s := rfl
  rw [hexec, complete_busy hseq, buildCommand_of_admitted h]
  rfl

/-- A register written with a number of `RW` bits or fewer holds exactly that number (R6). -/
theorem toNat_ofNat_width {PW n : Nat} (h : n < 2 ^ (2 * PW)) :
    (BitVec.ofNat (2 * PW) n).toNat = n := by
  rw [BitVec.toNat_ofNat, Nat.mod_eq_of_lt h]

/-- Settles O2: the product and the lcm of two operands below `2 ^ PW` fit a register of
`2 * PW` bits, so that neither is cut. -/
theorem buildResultsAreExact : Obligations.BuildResultsAreExact := by
  intro s w m hseq hadm
  obtain ⟨hp, hq, -⟩ := id hadm
  have hn := toNat_ofNat_width (mul_lt_width hp hq)
  refine ⟨_, exec_build_of_admitted hseq hadm, hn, toNat_ofNat_width (lcm_lt_width hp hq), ?_,
    toNat_ofNat_width (lt_width s.params (by decide)),
    toNat_ofNat_width (lt_width s.params (by decide))⟩
  exact hadm.two_le_mul.trans_eq hn.symm

end Sys2Proof.Machine
end

section
/-! PROOFS. What a step does to the block, as cases: the effect of a host write, a command's writes, a
completion, and a step. Each relation is tied to the model by one lemma, and the statements on what a
step changes go through its cases. -/

namespace Sys2Proof.Machine

/-! ### Host writes -/

/-- A slot holds a register exactly when it is that register's slot (R15). -/
theorem regAt_eq_some_iff {a : Addr} {r : Reg} : regAt a = some r ↔ a = slotOf r := by
  revert a
  cases r <;> decide

/-- The slots that R37 guards are those of CTRL, CMD, P_IN, Q_IN and DIN. -/
theorem guarded_slotOf_iff {r : Reg} :
    Guarded (slotOf r) ↔ r = .ctrl ∨ r = .cmd ∨ r = .pIn ∨ r = .qIn ∨ r = .din := by
  unfold Guarded
  cases r <;> decide

/-- A reserved slot is not guarded (R37). -/
theorem not_guarded_of_reserved {a : Addr} (h : regAt a = none) : ¬Guarded a := by
  unfold Guarded
  revert a
  decide

/-- What a host write of `v` to a slot can make of the block `b` (R35 to R37). -/
inductive WriteEffect {PW : Nat} (b : Block PW) (v : Word PW) : Addr → Block PW → Prop where
  | dropped {a : Addr} (busy : b.busy = true) (guarded : Guarded a) : WriteEffect b v a b.setOvr
  | ctrl (idle : b.busy = false) :
    WriteEffect b v (slotOf .ctrl) { b with mode := Mode.ofBit (v.getLsbD 0) }
  | status : WriteEffect b v (slotOf .status) (b.clearOvrIf (v.getLsbD 4))
  | cmd (idle : b.busy = false) : WriteEffect b v (slotOf .cmd) (b.issue v)
  | pIn (idle : b.busy = false) : WriteEffect b v (slotOf .pIn) { b with pIn := v }
  | qIn (idle : b.busy = false) : WriteEffect b v (slotOf .qIn) { b with qIn := v }
  | din (idle : b.busy = false) : WriteEffect b v (slotOf .din) { b with din := v }
  | ignored {a : Addr} (unguarded : ¬Guarded a) (notStatus : a ≠ slotOf .status) : WriteEffect b v a b

/-- A guarded write is dropped while a command is in flight, and has its effect in IDLE. -/
theorem WriteEffect.unlessBusy {PW : Nat} {b b' : Block PW} {v : Word PW} {a : Addr}
    (hg : Guarded a) (h : b.busy = false → WriteEffect b v a b') :
    WriteEffect b v a (b.unlessBusy b') := by
  unfold Block.unlessBusy
  split
  · exact .dropped ‹_› hg
  · exact h (by simpa using ‹¬b.busy = true›)

/-- Every host write has one of these effects. -/
theorem hostWrite_effect {PW : Nat} (b : Block PW) (a : Addr) (v : Word PW) :
    WriteEffect b v a (b.hostWrite a v) := by
  unfold Block.hostWrite
  cases hr : regAt a with
  | none => exact .ignored (not_guarded_of_reserved hr) (by rintro rfl; cases hr)
  | some r =>
    obtain rfl := regAt_eq_some_iff.1 hr
    cases r with
    | ctrl => exact .unlessBusy (guarded_slotOf_iff.2 (by simp)) .ctrl
    | cmd => exact .unlessBusy (guarded_slotOf_iff.2 (by simp)) .cmd
    | pIn => exact .unlessBusy (guarded_slotOf_iff.2 (by simp)) .pIn
    | qIn => exact .unlessBusy (guarded_slotOf_iff.2 (by simp)) .qIn
    | din => exact .unlessBusy (guarded_slotOf_iff.2 (by simp)) .din
    | status => exact .status
    | p | q | n | l | e | d | dout => exact .ignored (by simp [guarded_slotOf_iff]) (by decide)

/-! ### Completions -/

/-- The computation that a command's completion runs. -/
def commandOf : Instr → Command
  | .build => buildCommand
  | .genkey => genkeyCommand
  | .enc => encCommand
  | .dec => decCommand

/-- A command's meaning is the completion of its computation (R103). -/
theorem exec_eq_complete (i : Instr) (s : State) : exec i s = complete (commandOf i) s := by
  cases i <;> rfl

/-- BUILD refuses operands that are not admitted (R66). -/
theorem buildCommand_of_not_admitted {PW : Nat} {m : Mode} {b : Block PW}
    (h : ¬Admitted PW m b.pIn.toNat b.qIn.toNat) :
    buildCommand PW m b = .error .invalidModulusInput := by
  simp only [buildCommand]
  split_ifs with hrange hzero hone hstrict
  · rfl
  · rfl
  · rfl
  · rfl
  · exact absurd ((admitted_iff PW m _ _).2 ⟨hrange, hzero, hone, hstrict⟩) h

/-- The writes of a command with latched mode `m` that ends without error, before its status (R68, R79,
R88, R89). -/
inductive CommandWrites {PW : Nat} (m : Mode) (b : Block PW) : Instr → Block PW → Prop where
  | build (admitted : Admitted PW m b.pIn.toNat b.qIn.toNat) :
    CommandWrites m b .build (b.writeInstance (b.pIn.toNat * b.qIn.toNat)
      (Nat.lcm (b.pIn.toNat - 1) (b.qIn.toNat - 1)))
  | genkey (built : b.modValid = true) (totient : ¬(m = .strict ∧ b.l.toNat ≤ 2)) :
    CommandWrites m b .genkey (b.writeKeys (findPublicExponent b.l.toNat)
      (privateExponent (findPublicExponent b.l.toNat) b.l.toNat))
  | enc (built : b.modValid = true) (scalar : validScalar b.din.toNat = true) :
    CommandWrites m b .enc (b.writeDout (modexp b.din.toNat b.e.toNat b.n.toNat))
  | dec (built : b.modValid = true)
      (scalar : validScalar (modexp b.din.toNat b.d.toNat b.n.toNat) = true) :
    CommandWrites m b .dec (b.writeDout (modexp b.din.toNat b.d.toNat b.n.toNat))

/-- A command without error makes its writes. -/
theorem commandWrites_of_ok {PW : Nat} {m : Mode} {b b' : Block PW} {i : Instr}
    (h : commandOf i PW m b = .ok b') : CommandWrites m b i b' := by
  cases i with
  | build =>
    by_cases ha : Admitted PW m b.pIn.toNat b.qIn.toNat
    · obtain rfl := Except.ok.inj ((buildCommand_of_admitted ha).symm.trans h)
      exact .build ha
    · cases (buildCommand_of_not_admitted ha).symm.trans h
  | genkey =>
    rcases genkeyCommand_cases PW m b with ⟨hc, hv, hl⟩ | ⟨hc, -⟩ | ⟨hc, -⟩
    · obtain rfl := Except.ok.inj (hc.symm.trans h)
      exact .genkey hv hl
    all_goals cases hc.symm.trans h
  | enc =>
    rcases encCommand_cases PW m b with ⟨hc, hv, hs⟩ | ⟨c, hc, -⟩
    · obtain rfl := Except.ok.inj (hc.symm.trans h)
      exact .enc hv hs
    · cases hc.symm.trans h
  | dec =>
    rcases decCommand_cases PW m b with ⟨hc, hv, hs⟩ | ⟨c, hc, -⟩
    · obtain rfl := Except.ok.inj (hc.symm.trans h)
      exact .dec hv hs
    · cases hc.symm.trans h

/-- The block that the completion of a command leaves (R103, R104). -/
inductive Completion {PW : Nat} (m : Mode) (b : Block PW) (i : Instr) : Block PW → Prop where
  | succeeds {b' : Block PW} (writes : CommandWrites m b i b') : Completion m b i b'.succeed
  | fails (c : ErrCode) : Completion m b i (b.raise c)

/-- A command's meaning answers the block of its completion. -/
theorem exec_completion {i : Instr} {s t : State} (h : exec i s = .next t) :
    ∃ w m b, s.block.seq = .busy w m ∧ Completion m s.block i b ∧ t = s.setBlock b := by
  rw [exec_eq_complete] at h
  obtain ⟨w, m, hseq, ⟨b, hc, rfl⟩ | ⟨c, -, rfl⟩⟩ := complete_next h
  · exact ⟨w, m, _, hseq, .succeeds (commandWrites_of_ok hc), rfl⟩
  · exact ⟨w, m, _, hseq, .fails c, rfl⟩

/-- No completion writes an operand, MODE or OVR (R26, R31, R107). -/
theorem Completion.keeps_operands {PW : Nat} {m : Mode} {b b' : Block PW} {i : Instr}
    (h : Completion m b i b') :
    b'.mode = b.mode ∧ b'.ovr = b.ovr ∧ b'.pIn = b.pIn ∧ b'.qIn = b.qIn ∧ b'.din = b.din := by
  cases h with
  | succeeds writes => cases writes <;> simp
  | fails c => simp

/-- BUILD and GENKEY do not write DOUT (R23). -/
theorem Completion.keeps_dout {PW : Nat} {m : Mode} {b b' : Block PW} {i : Instr}
    (h : Completion m b i b') (hi : i = .build ∨ i = .genkey) : b'.dout = b.dout := by
  cases h with
  | succeeds writes =>
    cases writes with
    | build | genkey => rfl
    | enc | dec => simp at hi
  | fails c => rfl

/-- Only BUILD writes the instance (R21). -/
theorem Completion.keeps_instance {PW : Nat} {m : Mode} {b b' : Block PW} {i : Instr}
    (h : Completion m b i b') (hi : i ≠ .build) :
    b'.p = b.p ∧ b'.q = b.q ∧ b'.n = b.n ∧ b'.l = b.l ∧ b'.modValid = b.modValid := by
  cases h with
  | succeeds writes =>
    cases writes with
    | build => exact absurd rfl hi
    | genkey | enc | dec => simp
  | fails c => simp

/-- Only BUILD and GENKEY write the keys (R22). -/
theorem Completion.keeps_keys {PW : Nat} {m : Mode} {b b' : Block PW} {i : Instr}
    (h : Completion m b i b') (hb : i ≠ .build) (hg : i ≠ .genkey) :
    b'.e = b.e ∧ b'.d = b.d ∧ b'.keyValid = b.keyValid := by
  cases h with
  | succeeds writes =>
    cases writes with
    | build => exact absurd rfl hb
    | genkey => exact absurd rfl hg
    | enc | dec => simp
  | fails c => simp

/-- Settles O22, from what each command's completion keeps. -/
theorem commandsKeepTheirFrame : Obligations.CommandsKeepTheirFrame := by
  intro i s t h
  obtain ⟨w, m, b, -, hb, rfl⟩ := exec_completion h
  obtain ⟨hmode, hovr, hpIn, hqIn, hdin⟩ := hb.keeps_operands
  refine ⟨b, rfl, hmode, hovr, hpIn, hqIn, hdin, hb.keeps_dout, fun hi => ?_, fun hi => ?_⟩
  · exact hb.keeps_instance (by rintro rfl; simp at hi)
  · exact hb.keeps_keys (by rintro rfl; simp at hi) (by rintro rfl; simp at hi)

/-! ### Steps -/

/-- The block that a step from `s` leaves: of every kind of turn, what it makes of the block. -/
inductive StepsTo (s : State) : Block s.params.PW → Prop where
  | unchanged : StepsTo s s.block
  | writes {a : Addr} {v : Word s.params.PW} {b : Block s.params.PW} (next : WriteNext s a)
      (effect : WriteEffect s.block v a b) : StepsTo s b
  | resets (next : ResetNext s) : StepsTo s (Block.reset s.params.PW)
  | rejects (busy : s.block.busy = true) : StepsTo s (s.block.raise .illegalCommand)
  | completes {i : Instr} {m : Mode} {b : Block s.params.PW} (next : Completes s i)
      (completion : Completion m s.block i b) : StepsTo s b

/-- The host's turn leaves the block as it is, or makes a write. -/
theorem hostTurn_stepsTo {s : State} (hn : s.nextTurn = .host) :
    ∃ b ts ops log, StepsTo s b ∧ hostTurn (s.setSchedule s.schedule.tail) =
      { params := s.params, block := b, program := ops, schedule := ts, readLog := log } := by
  rcases hostTurn_cases (s.setSchedule s.schedule.tail) with
    ⟨-, h⟩ | ⟨a, ops, -, h⟩ | ⟨a, v, ops, hp, h⟩ | ⟨ops, -, h⟩
  · exact ⟨_, _, _, _, .unchanged, h⟩
  · exact ⟨_, _, _, _, .unchanged, h⟩
  · exact ⟨_, _, _, _, .writes ⟨v, ops, hn, hp⟩ (hostWrite_effect s.block a v), h⟩
  · exact ⟨_, _, _, _, .unchanged, h⟩

/-- Every step leaves the width and one of these blocks. -/
theorem step_stepsTo {s t : State} (h : step s = .next t) :
    ∃ b ts ops log, StepsTo s b ∧
      t = { params := s.params, block := b, program := ops, schedule := ts, readLog := log } := by
  rcases step_cases s with ⟨hn, hs⟩ | ⟨hn, hs⟩ | ⟨hn, ⟨-, hs⟩ | ⟨w, m, hw, ⟨r, -, hs⟩ | ⟨i, hd, hs⟩⟩⟩
  · obtain rfl := Host.Outcome.next.inj (hs.symm.trans h)
    exact hostTurn_stepsTo hn
  · obtain rfl := Host.Outcome.next.inj (hs.symm.trans h)
    exact ⟨_, _, _, _, .resets hn, rfl⟩
  · obtain rfl := Host.Outcome.next.inj (hs.symm.trans h)
    exact ⟨_, _, _, _, .unchanged, rfl⟩
  · obtain rfl := Host.Outcome.next.inj (hs.symm.trans h)
    exact ⟨_, _, _, _, .rejects (Block.busy_eq_true.2 ⟨w, m, hw⟩), rfl⟩
  · obtain ⟨_, m', b, -, hb, rfl⟩ := exec_completion (hs.symm.trans h)
    exact ⟨b, _, _, _, .completes ⟨hn, w, m, hw, hd⟩ hb, rfl⟩

/-- Settles O37: of all that a step makes of the block, only a dropped write sets OVR. -/
theorem ovrSetOnlyByDroppedWrite : Obligations.OvrSetOnlyByDroppedWrite := by
  intro s t h hs ht
  obtain ⟨b, _, _, _, hb, rfl⟩ := step_stepsTo h
  have hne : b.ovr ≠ s.block.ovr := by
    rw [hs]
    exact ne_of_eq_of_ne ht (by decide)
  cases hb with
  | unchanged => exact absurd rfl hne
  | @writes a _ _ next effect =>
    cases effect with
    | dropped busy guarded => exact ⟨busy, a, guarded, next⟩
    | status => exact absurd (by simp [hs]) hne
    | ctrl | cmd | pIn | qIn | din | ignored => exact absurd rfl hne
  | resets => exact absurd hs.symm hne
  | rejects => exact absurd rfl hne
  | completes _ completion =>
    obtain ⟨-, hovr, -⟩ := completion.keeps_operands
    exact absurd hovr hne

/-- Settles O43: only BUILD and a reset write the instance. -/
theorem onlyBuildWritesInstance : Obligations.OnlyBuildWritesInstance := by
  intro s t h hreset hbuild
  obtain ⟨b, _, _, _, hb, rfl⟩ := step_stepsTo h
  cases hb with
  | unchanged => simp
  | writes _ effect => cases effect <;> simp
  | resets next => exact absurd next hreset
  | rejects => simp
  | completes next completion =>
    obtain ⟨hp, hq, hn, hl, hv⟩ := completion.keeps_instance (by rintro rfl; exact hbuild next)
    exact ⟨congrArg _ hp, congrArg _ hq, congrArg _ hn, congrArg _ hl, hv⟩

/-- Settles O44: only BUILD, GENKEY and a reset write the keys. -/
theorem onlyBuildAndGenkeyWriteKeys : Obligations.OnlyBuildAndGenkeyWriteKeys := by
  intro s t h hreset hbuild hgenkey
  obtain ⟨b, _, _, _, hb, rfl⟩ := step_stepsTo h
  cases hb with
  | unchanged => simp
  | writes _ effect => cases effect <;> simp
  | resets next => exact absurd next hreset
  | rejects => simp
  | completes next completion =>
    obtain ⟨he, hd, hv⟩ := completion.keeps_keys (by rintro rfl; exact hbuild next)
      (by rintro rfl; exact hgenkey next)
    exact ⟨congrArg _ he, congrArg _ hd, hv⟩

/-- Settles O45: only an ENC or DEC that ends without error, and a reset, write DOUT. -/
theorem onlyCipherWritesDout : Obligations.OnlyCipherWritesDout := by
  intro s t h hreset hcipher
  obtain ⟨b, _, _, _, hb, rfl⟩ := step_stepsTo h
  cases hb with
  | unchanged => rfl
  | writes _ effect => cases effect <;> rfl
  | resets next => exact absurd next hreset
  | rejects => rfl
  | completes next completion =>
    cases completion with
    | succeeds writes =>
      cases writes with
      | build | genkey => rfl
      | enc => exact absurd ⟨.inl next, rfl⟩ hcipher
      | dec => exact absurd ⟨.inr next, rfl⟩ hcipher
    | fails => rfl

/-- A host write changes no operand but the one at its own slot, and none while a command is in flight
(R20, R35, R37). -/
theorem WriteEffect.keeps_operands {PW : Nat} {b b' : Block PW} {v : Word PW} {a : Addr}
    (h : WriteEffect b v a b') :
    ((b.busy = true ∨ a ≠ slotOf .pIn) → b'.pIn = b.pIn) ∧
    ((b.busy = true ∨ a ≠ slotOf .qIn) → b'.qIn = b.qIn) ∧
    ((b.busy = true ∨ a ≠ slotOf .din) → b'.din = b.din) ∧
    ((b.busy = true ∨ a ≠ slotOf .ctrl) → b'.mode = b.mode) := by
  cases h with
  | dropped | status | cmd | ignored => simp
  | ctrl idle | pIn idle | qIn idle | din idle => simp [idle]

/-- Settles O46: a command writes no operand, and a host write only the one at its slot. -/
theorem onlyHostWritesOperands : Obligations.OnlyHostWritesOperands := by
  intro s t h hreset
  obtain ⟨b, _, _, _, hb, rfl⟩ := step_stepsTo h
  cases hb with
  | unchanged => simp
  | writes next effect =>
    obtain ⟨hp, hq, hd, hm⟩ := effect.keeps_operands
    have elsewhere {r : Reg} (hn : s.block.busy = true ∨ ¬WriteNext s (slotOf r)) :
        s.block.busy = true ∨ _ ≠ slotOf r := hn.imp_right fun hn ha => hn (ha ▸ next)
    exact ⟨fun hn => congrArg _ (hp (elsewhere hn)), fun hn => congrArg _ (hq (elsewhere hn)),
      fun hn => congrArg _ (hd (elsewhere hn)), fun hn => hm (elsewhere hn)⟩
  | resets next => exact absurd next hreset
  | rejects => simp
  | completes _ completion =>
    obtain ⟨hm, -, hp, hq, hd⟩ := completion.keeps_operands
    exact ⟨fun _ => congrArg _ hp, fun _ => congrArg _ hq, fun _ => congrArg _ hd, fun _ => hm⟩

end Sys2Proof.Machine
end

section
/-! PROOFS. What the host reads: CTRL and STATUS as numbers, the register at each slot, and the zeros of
the block right after reset (R17, R18, R29, R34). -/

namespace Sys2Proof.Machine

/-- A read of a register's slot gives the register (R15, R34). -/
theorem hostRead_slotOf {PW : Nat} (b : Block PW) (r : Reg) : b.hostRead (slotOf r) = b.readReg r := by
  cases r <;> rfl

/-- A reserved slot reads as 0 (R34). -/
theorem hostRead_reserved {PW : Nat} (b : Block PW) {a : Addr} (h : 0xD ≤ a.toNat) :
    b.hostRead a = 0 := by
  have hr : regAt a = none := by
    revert a
    decide
  simp [Block.hostRead, hr]

/-- A word of 12 bits or fewer keeps its value in a register (R5). -/
theorem toNat_setWidth_width (c : Config.Params) {k : Nat} (hk : k ≤ 12) (x : BitVec k) :
    (x.setWidth (2 * c.PW)).toNat = x.toNat := by
  have hc := c.legal
  rw [BitVec.toNat_setWidth_of_le (by omega)]

/-- MODE is bit 0 of CTRL (R17). -/
theorem ctrlWord_toNat (c : Config.Params) (b : Block c.PW) :
    b.ctrlWord.toNat = if b.mode = .strict then 1 else 0 := by
  rw [Block.ctrlWord, toNat_setWidth_width c (by decide)]
  cases b.mode <;> rfl

/-- Settles O39: each slot's register, with CTRL as a number. -/
theorem hostReadValues : Obligations.HostReadValues := by
  intro s
  refine ⟨ctrlWord_toNat s.params s.block, ?_⟩
  exact ⟨rfl, rfl, rfl, rfl, rfl, rfl, rfl, rfl, rfl, rfl, rfl,
    fun a ha => hostRead_reserved s.block ha⟩

/-- A bit appended below a word doubles the word. -/
theorem toNat_append_ofBool {k : Nat} (x : BitVec k) (c : Bool) :
    (x ++ BitVec.ofBool c).toNat = x.toNat * 2 + c.toNat :=
  BitVec.toNat_concat x c

/-- BUSY as a number (R25). -/
theorem busy_toNat {PW : Nat} (b : Block PW) : b.busy.toNat = if b.seq = .idle then 0 else 1 := by
  unfold Block.busy
  cases b.seq <;> simp

/-- STATUS as a number (R18). -/
theorem statusWord_toNat (c : Config.Params) (b : Block c.PW) :
    b.statusWord.toNat = b.busy.toNat + 2 * b.done.toNat + 4 * b.modValid.toNat +
      8 * b.keyValid.toNat + 16 * b.ovr.toNat + 256 * b.err.code.toNat := by
  have herr : (b.err.code ++ 0#3).toNat = b.err.code.toNat * 8 := by
    rw [BitVec.toNat_append, BitVec.toNat_ofNat, Nat.zero_mod, Nat.or_zero, Nat.shiftLeft_eq]
  rw [Block.statusWord, toNat_setWidth_width c (by decide)]
  simp only [toNat_append_ofBool, herr]
  omega

/-- Settles O40: the layout of STATUS, with each code's number. -/
theorem statusWordLayout : Obligations.StatusWordLayout := by
  intro s
  have hread : s.block.hostRead 0x1 = s.block.statusWord := hostRead_slotOf s.block .status
  rw [hread, statusWord_toNat s.params, busy_toNat]
  cases s.block.err <;> rfl

/-- Every register of the block right after reset reads 0 (R29). -/
theorem readReg_reset (PW : Nat) (r : Reg) : (Block.reset PW).readReg r = 0 := by
  cases r with
  | ctrl => exact BitVec.setWidth_zero (2 * PW) 1
  | status => simp [Block.readReg, Block.statusWord, Block.reset, ErrCode.code, Block.busy]
  | _ => rfl

/-- Every slot of the block right after reset reads 0 (R29). -/
theorem hostRead_reset (PW : Nat) (a : Addr) : (Block.reset PW).hostRead a = 0 := by
  unfold Block.hostRead
  split
  · exact readReg_reset PW _
  · rfl

/-- Settles O42, at the reset state's width. -/
theorem resetStateReadsZero : Obligations.ResetStateReadsZero :=
  ⟨rfl, rfl, rfl, hostRead_reset _⟩

end Sys2Proof.Machine
end

section
/-! PROOFS. The exponents (R75 to R78): both searches are one scan, whose result is the first number that
qualifies; and the extended Euclidean algorithm gives the value of the search for the inverse. -/

namespace Sys2Proof.Machine

/-! ### The scan behind both searches -/

/-- The first of `fuel` candidates from `i` on that satisfies `f`, and `sentinel` if none does. -/
def firstFrom (f : Nat → Prop) [DecidablePred f] (sentinel : Nat) : (fuel i : Nat) → Nat
  | 0, _ => sentinel
  | fuel + 1, i => if f i then i else firstFrom f sentinel fuel (i + 1)

/-- The scan for the encryption exponent is a scan for a coprime (R75). -/
theorem scanPublic_eq_firstFrom (l fuel i : Nat) :
    scanPublic l fuel i = firstFrom (fun j => Nat.gcd j l = 1) 2 fuel i := by
  induction fuel generalizing i with
  | zero => rfl
  | succ fuel ih => by_cases h : Nat.gcd i l = 1 <;> simp [scanPublic, firstFrom, coprime, gcd, h, ih]

/-- The scan for the decryption exponent is a scan for an inverse (R76). -/
theorem scanPrivate_eq_firstFrom (e l fuel i : Nat) :
    scanPrivate e l fuel i = firstFrom (fun j => e * j % l = 1) 1 fuel i := by
  induction fuel generalizing i with
  | zero => rfl
  | succ fuel ih => simp [scanPrivate, firstFrom, ih]

section Scan

variable {f : Nat → Prop} [DecidablePred f] {sentinel fuel i : Nat}

/-- When a candidate qualifies, the scan's result is the least number from `i` on that does. -/
theorem firstFrom_of_exists (h : ∃ j, i ≤ j ∧ j < i + fuel ∧ f j) :
    i ≤ firstFrom f sentinel fuel i ∧ firstFrom f sentinel fuel i < i + fuel ∧
      f (firstFrom f sentinel fuel i) ∧ ∀ j, i ≤ j → f j → firstFrom f sentinel fuel i ≤ j := by
  induction fuel generalizing i with
  | zero =>
    obtain ⟨j, hij, hj, -⟩ := h
    omega
  | succ fuel ih =>
    unfold firstFrom
    split
    next hi => exact ⟨le_rfl, by omega, hi, fun j hj _ => hj⟩
    next hi =>
      have later {j : Nat} (hij : i ≤ j) (hj : f j) : i + 1 ≤ j :=
        Nat.lt_of_le_of_ne hij fun e => hi (e ▸ hj)
      obtain ⟨j, hij, hlt, hj⟩ := h
      obtain ⟨hge, hlt', hf, hmin⟩ := ih ⟨j, later hij hj, by omega, hj⟩
      exact ⟨by omega, by omega, hf, fun j hij hj => hmin j (later hij hj) hj⟩

/-- When no candidate qualifies, the scan's result is the sentinel. -/
theorem firstFrom_of_not_exists (h : ¬∃ j, i ≤ j ∧ j < i + fuel ∧ f j) :
    firstFrom f sentinel fuel i = sentinel := by
  induction fuel generalizing i with
  | zero => rfl
  | succ fuel ih =>
    rw [firstFrom, if_neg fun hi => h ⟨i, le_rfl, by omega, hi⟩]
    exact ih fun ⟨j, hij, hlt, hj⟩ => h ⟨j, by omega, by omega, hj⟩

end Scan

/-! ### The searches -/

/-- On a totient of 3 or more the encryption exponent is the least coprime from 2 on (R75, R77). -/
theorem findPublicExponent_spec {l : Nat} (hl : 3 ≤ l) :
    2 ≤ findPublicExponent l ∧ findPublicExponent l < l ∧ Nat.gcd (findPublicExponent l) l = 1 ∧
      ∀ i, 2 ≤ i → Nat.gcd i l = 1 → findPublicExponent l ≤ i := by
  have hpred : Nat.gcd (l - 1) l = 1 := by
    have h := Nat.coprime_self_add_right.2 (Nat.coprime_one_right (l - 1))
    rwa [Nat.sub_add_cancel (by omega)] at h
  have h := firstFrom_of_exists (f := fun j => Nat.gcd j l = 1) (sentinel := 2) (fuel := l - 2) (i := 2)
    ⟨l - 1, by omega, by omega, hpred⟩
  rwa [← scanPublic_eq_firstFrom, Nat.add_sub_cancel' (by omega)] at h

/-- On a totient below 3 the encryption exponent is the sentinel (R75). -/
theorem findPublicExponent_of_le_two {l : Nat} (hl : l ≤ 2) : findPublicExponent l = 2 := by
  rw [findPublicExponent, Nat.sub_eq_zero_of_le hl]
  rfl

/-- When an inverse exists, the decryption exponent is the least (R76). -/
theorem findPrivateExponent_of_exists {e l : Nat} (h : ∃ i, 1 ≤ i ∧ i < l ∧ e * i % l = 1) :
    1 ≤ findPrivateExponent e l ∧ findPrivateExponent e l < l ∧
      e * findPrivateExponent e l % l = 1 ∧
      ∀ i, 1 ≤ i → e * i % l = 1 → findPrivateExponent e l ≤ i := by
  obtain ⟨i, hi, hlt, hinv⟩ := h
  have h := firstFrom_of_exists (f := fun j => e * j % l = 1) (sentinel := 1) (fuel := l - 1) (i := 1)
    ⟨i, hi, by omega, hinv⟩
  rwa [← scanPrivate_eq_firstFrom, Nat.add_sub_cancel' (by omega)] at h

/-- When no inverse exists, the decryption exponent is the sentinel (R76). -/
theorem findPrivateExponent_of_not_exists {e l : Nat}
    (h : ¬∃ i, 1 ≤ i ∧ i < l ∧ e * i % l = 1) : findPrivateExponent e l = 1 := by
  rw [findPrivateExponent, scanPrivate_eq_firstFrom]
  exact firstFrom_of_not_exists fun ⟨j, hj, hlt, hinv⟩ => h ⟨j, hj, by omega, hinv⟩

/-- A coprime of a totient above 1 has an inverse in the range of the search (R77). -/
theorem exists_inverse {e l : Nat} (hl : 1 < l) (h : Nat.gcd e l = 1) :
    ∃ i, 1 ≤ i ∧ i < l ∧ e * i % l = 1 := by
  obtain ⟨i, hlt, hinv⟩ := Nat.exists_mul_mod_eq_one_of_coprime h hl
  refine ⟨i, Nat.one_le_iff_ne_zero.2 ?_, hlt, hinv⟩
  rintro rfl
  simp at hinv

/-- A number with an inverse is coprime to the totient. -/
theorem gcd_eq_one_of_mul_mod_eq_one {e i l : Nat} (h : e * i % l = 1) : Nat.gcd e l = 1 := by
  have hdvd : Nat.gcd e l ∣ e * i % l :=
    (Nat.dvd_mod_iff (Nat.gcd_dvd_right e l)).2 ((Nat.gcd_dvd_left e l).mul_right i)
  exact Nat.dvd_one.1 (h ▸ hdvd)

/-- The decryption exponent is the only inverse below the totient (R77). -/
theorem findPrivateExponent_unique {e i l : Nat} (hi : i < l) (hinv : e * i % l = 1) :
    findPrivateExponent e l = i := by
  have hi0 : i ≠ 0 := by
    rintro rfl
    simp at hinv
  have hgcd := gcd_eq_one_of_mul_mod_eq_one hinv
  obtain ⟨-, hlt, hinv', -⟩ :=
    findPrivateExponent_of_exists ⟨i, Nat.one_le_iff_ne_zero.2 hi0, hi, hinv⟩
  have hmod : findPrivateExponent e l ≡ i [MOD l] :=
    Nat.ModEq.cancel_left_of_coprime (Nat.gcd_comm e l ▸ hgcd) (hinv'.trans hinv.symm)
  exact hmod.eq_of_lt_of_lt hlt hi

/-! ### The extended Euclidean algorithm -/

/-- The algorithm ends with the greatest common divisor, and with a cofactor of it modulo `l` (R78). -/
theorem euclid_spec {l e : Nat} (hl : 0 < l) {fuel r0 r1 t0 t1 : Nat} (hfuel : r1 ≤ fuel)
    (h0 : (t0 * e : ZMod l) = r0) (h1 : (t1 * e : ZMod l) = r1) :
    (euclid l fuel r0 r1 t0 t1).1 = Nat.gcd r0 r1 ∧
      ((euclid l fuel r0 r1 t0 t1).2 * e : ZMod l) = (euclid l fuel r0 r1 t0 t1).1 := by
  induction fuel generalizing r0 r1 t0 t1 with
  | zero =>
    obtain rfl : r1 = 0 := by omega
    exact ⟨(Nat.gcd_zero_right r0).symm, h0⟩
  | succ fuel ih =>
    unfold euclid
    split
    next hr =>
      subst hr
      exact ⟨(Nat.gcd_zero_right r0).symm, h0⟩
    next hr =>
      have hlt := Nat.mod_lt r0 (Nat.pos_of_ne_zero hr)
      have hcof : (((t0 + (l - r0 / r1 * t1 % l)) % l : Nat) * e : ZMod l) = (r0 % r1 : Nat) := by
        have hdiv : ((r1 * (r0 / r1) + r0 % r1 : Nat) : ZMod l) = r0 := by rw [Nat.div_add_mod]
        have hneg : ((l - r0 / r1 * t1 % l : Nat) : ZMod l) = -((r0 / r1 : Nat) * t1) := by
          simp [Nat.cast_sub (Nat.mod_lt _ hl).le]
        rw [ZMod.natCast_mod, Nat.cast_add, hneg]
        push_cast at hdiv
        linear_combination h0 - (r0 / r1 : Nat) * h1 - hdiv
      obtain ⟨hg, ht⟩ := ih (by omega) h1 hcof
      refine ⟨hg.trans ?_, ht⟩
      rw [Nat.gcd_comm, ← Nat.gcd_rec, Nat.gcd_comm]

/-- The algorithm of R78 gives the value of the search of R76, for every number and totient. -/
theorem privateExponent_eq_findPrivateExponent (e l : Nat) :
    privateExponent e l = findPrivateExponent e l := by
  unfold privateExponent
  split
  next hl =>
    exact (findPrivateExponent_of_not_exists fun ⟨i, hi, hlt, _⟩ => by omega).symm
  next hl =>
    obtain ⟨hg, ht⟩ := euclid_spec (l := l) (e := e) (fuel := l) (r0 := l) (r1 := e % l) (t0 := 0)
      (t1 := 1) (by omega) (Nat.mod_lt e (by omega)).le (by simp) (by simp)
    have hgcd : Nat.gcd l (e % l) = Nat.gcd e l := by rw [Nat.gcd_comm, ← Nat.gcd_rec, Nat.gcd_comm]
    rw [hgcd] at hg
    dsimp only
    split
    next h1 =>
      have hinv : e * ((euclid l l l (e % l) 0 1).2 % l) % l = 1 := by
        rw [h1, ← Nat.cast_mul, ZMod.natCast_eq_natCast_iff] at ht
        rw [Nat.mul_mod_mod, mul_comm, ht, Nat.mod_eq_of_lt (by omega)]
      exact (findPrivateExponent_unique (Nat.mod_lt _ (by omega)) hinv).symm
    next h1 =>
      refine (findPrivateExponent_of_not_exists fun ⟨i, _, _, hinv⟩ => h1 ?_).symm
      exact hg.trans (gcd_eq_one_of_mul_mod_eq_one hinv)

end Sys2Proof.Machine
end

section
/-! PROOFS. The invariant of R30 with the relations of STATUS: it holds right after reset, every step keeps
it, and it makes the keys of a keyed instance valid and minimal (R81). -/

namespace Sys2Proof.Machine

/-! ### What the invariant speaks of -/

/-- The registers that R30 relates: the instance, the keys and their two flags. -/
def Block.instanceRegs {PW : Nat} (b : Block PW) :
    Bool × Bool × Word PW × Word PW × Word PW × Word PW × Word PW × Word PW :=
  (b.modValid, b.keyValid, b.p, b.q, b.n, b.l, b.e, b.d)

/-- The instance's relations depend on these registers only. -/
theorem InstanceInv.of_instanceRegs_eq {PW : Nat} {b b' : Block PW} (h : InstanceInv b)
    (hr : b'.instanceRegs = b.instanceRegs) : InstanceInv b' := by
  simp only [Block.instanceRegs, Prod.mk.injEq] at hr
  obtain ⟨-, hk, hp, hq, hn, hl, he, hd⟩ := hr
  constructor
  · exact hn ▸ h.n_ge
  · exact hn ▸ hp ▸ hq ▸ h.n_eq
  · exact hl ▸ hp ▸ hq ▸ h.l_eq
  · exact hp ▸ h.p_ge
  · exact hp ▸ h.p_lt
  · exact hq ▸ h.q_ge
  · exact hq ▸ h.q_lt
  · exact hp ▸ hq ▸ h.not_both_one
  · exact hk ▸ he ▸ hd ▸ h.sentinels
  · exact hk ▸ he ▸ hd ▸ hl ▸ h.keys

/-- The zeros before any instance depend on these registers and DOUT only. -/
theorem NoInstanceInv.of_instanceRegs_eq {PW : Nat} {b b' : Block PW} (h : NoInstanceInv b)
    (hr : b'.instanceRegs = b.instanceRegs) (hdout : b'.dout = b.dout) : NoInstanceInv b' := by
  simp only [Block.instanceRegs, Prod.mk.injEq] at hr
  obtain ⟨-, hk, hp, hq, hn, hl, he, hd⟩ := hr
  exact ⟨hk.trans h.keyValid, hp.trans h.p, hq.trans h.q, hn.trans h.n, hl.trans h.l, he.trans h.e,
    hd.trans h.d, hdout.trans h.dout⟩

/-- A change that leaves the instance's registers, and DOUT unless an instance exists, keeps the
invariant when STATUS keeps its own relations. -/
theorem Block.Inv.of_instanceRegs_eq {PW : Nat} {b b' : Block PW} (h : b.Inv)
    (hr : b'.instanceRegs = b.instanceRegs) (hdout : b'.dout = b.dout ∨ b.modValid = true)
    (hbusy : b'.busy = true → b'.done = false ∧ b'.err = .noError)
    (herr : b'.err ≠ .noError → b'.done = true) : b'.Inv := by
  have hv : b'.modValid = b.modValid := congrArg Prod.fst hr
  refine ⟨fun hv' => ?_, fun hv' => ?_, hbusy, herr⟩
  · exact (h.instance_built (hv ▸ hv')).of_instanceRegs_eq hr
  · have hv0 : b.modValid = false := hv ▸ hv'
    exact (h.no_instance hv0).of_instanceRegs_eq hr (hdout.resolve_right (by simp [hv0]))

/-- A completion without error on an instance has the invariant. -/
theorem InstanceInv.inv_succeed {PW : Nat} {b : Block PW} (h : InstanceInv b)
    (hv : b.modValid = true) : b.succeed.Inv :=
  ⟨fun _ => h.of_instanceRegs_eq rfl, fun h0 => absurd (hv.symm.trans h0) (by decide),
    fun hb => absurd hb (by simp), fun _ => rfl⟩

/-! ### Reset, host writes and errors -/

/-- The block right after reset has the invariant (R29). -/
theorem Block.reset_inv (PW : Nat) : (Block.reset PW).Inv :=
  ⟨fun hv => absurd hv (by simp [Block.reset]), fun _ => ⟨rfl, rfl, rfl, rfl, rfl, rfl, rfl, rfl⟩,
    fun hb => absurd hb (by simp [Block.reset, Block.busy]), fun he => absurd rfl he⟩

/-- Settles O49. -/
theorem invariantHoldsAtReset : Obligations.InvariantHoldsAtReset := Block.reset_inv _

/-- A host write keeps the invariant: only an issue touches DONE and ERR, and it clears them. -/
theorem WriteEffect.keeps_inv {PW : Nat} {b b' : Block PW} {v : Word PW} {a : Addr} (h : b.Inv)
    (hw : WriteEffect b v a b') : b'.Inv := by
  cases hw with
  | ignored => exact h
  | cmd =>
    exact h.of_instanceRegs_eq rfl (.inl rfl) (fun _ => ⟨rfl, rfl⟩) (fun hne => absurd rfl hne)
  | dropped | ctrl | status | pIn | qIn | din =>
    exact h.of_instanceRegs_eq rfl (.inl rfl) h.busy_clear h.err_done

/-- An error keeps the invariant: it writes STATUS only (R104). -/
theorem Block.Inv.raise {PW : Nat} {b : Block PW} (h : b.Inv) (c : ErrCode) : (b.raise c).Inv :=
  h.of_instanceRegs_eq rfl (.inl rfl) (fun hb => absurd hb (by simp)) (fun _ => rfl)

/-! ### Completions without error -/

/-- An admitted BUILD leaves an instance (R68, R69). -/
theorem instanceInv_writeInstance (c : Config.Params) {m : Mode} {b : Block c.PW}
    (h : Admitted c.PW m b.pIn.toNat b.qIn.toNat) :
    InstanceInv (b.writeInstance (b.pIn.toNat * b.qIn.toNat)
      (Nat.lcm (b.pIn.toNat - 1) (b.qIn.toNat - 1))) := by
  obtain ⟨hp, hq, hp1, hq1, hpq, -⟩ := id h
  have hn := toNat_ofNat_width (mul_lt_width hp hq)
  exact
    { n_ge := h.two_le_mul.trans_eq hn.symm
      n_eq := hn
      l_eq := toNat_ofNat_width (lcm_lt_width hp hq)
      p_ge := hp1
      p_lt := hp
      q_ge := hq1
      q_lt := hq
      not_both_one := hpq
      sentinels := fun _ => ⟨toNat_ofNat_width (lt_width c (by decide)),
        toNat_ofNat_width (lt_width c (by decide))⟩
      keys := fun hk => absurd hk (by simp) }

/-- The encryption exponent of a register's totient fits a register (R6). -/
theorem findPublicExponent_lt_width (c : Config.Params) {l : Nat} (hl : l < 2 ^ (2 * c.PW)) :
    findPublicExponent l < 2 ^ (2 * c.PW) := by
  rcases Nat.lt_or_ge l 3 with h | h
  · rw [findPublicExponent_of_le_two (by omega)]
    exact lt_width c (by decide)
  · obtain ⟨-, hlt, -⟩ := findPublicExponent_spec h
    exact hlt.trans hl

/-- The decryption exponent for a register's totient fits a register (R6). -/
theorem findPrivateExponent_lt_width (c : Config.Params) (e : Nat) {l : Nat}
    (hl : l < 2 ^ (2 * c.PW)) : findPrivateExponent e l < 2 ^ (2 * c.PW) := by
  by_cases h : ∃ i, 1 ≤ i ∧ i < l ∧ e * i % l = 1
  · obtain ⟨-, hlt, -⟩ := findPrivateExponent_of_exists h
    exact hlt.trans hl
  · rw [findPrivateExponent_of_not_exists h]
    exact lt_width c (by decide)

/-- GENKEY on an instance leaves the instance with its keys (R79, R30). -/
theorem InstanceInv.writeKeys (c : Config.Params) {b : Block c.PW} (h : InstanceInv b) :
    InstanceInv (b.writeKeys (findPublicExponent b.l.toNat)
      (privateExponent (findPublicExponent b.l.toNat) b.l.toNat)) := by
  have he := toNat_ofNat_width (findPublicExponent_lt_width c b.l.isLt)
  have hd := toNat_ofNat_width (findPrivateExponent_lt_width c (findPublicExponent b.l.toNat) b.l.isLt)
  rw [privateExponent_eq_findPrivateExponent]
  exact
    { n_ge := h.n_ge
      n_eq := h.n_eq
      l_eq := h.l_eq
      p_ge := h.p_ge
      p_lt := h.p_lt
      q_ge := h.q_ge
      q_lt := h.q_lt
      not_both_one := h.not_both_one
      sentinels := fun hk => absurd hk (by simp)
      keys := fun _ => ⟨he, by rw [Block.writeKeys_d, Block.writeKeys_e, he, hd, Block.writeKeys_l]⟩ }

/-- A completion keeps the invariant: an error writes STATUS only, BUILD leaves an instance, GENKEY its
keys, and ENC and DEC write DOUT of an instance. -/
theorem Completion.keeps_inv (c : Config.Params) {m : Mode} {b b' : Block c.PW} {i : Instr} (h : b.Inv)
    (hc : Completion m b i b') : b'.Inv := by
  cases hc with
  | fails c => exact h.raise c
  | succeeds writes =>
    cases writes with
    | build admitted => exact (instanceInv_writeInstance c admitted).inv_succeed rfl
    | genkey built => exact ((h.instance_built built).writeKeys c).inv_succeed built
    | enc built | dec built =>
      exact InstanceInv.inv_succeed ((h.instance_built built).of_instanceRegs_eq rfl) built

/-! ### Steps and keys -/

/-- Settles O50, over every kind of turn: a host write, a reset, an illegal word, a completion. -/
theorem stepKeepsInvariant : Obligations.StepKeepsInvariant := by
  intro s t hinv h
  obtain ⟨b, _, _, _, hb, rfl⟩ := step_stepsTo h
  show b.Inv
  cases hb with
  | unchanged => exact hinv
  | writes _ effect => exact effect.keeps_inv hinv
  | resets => exact Block.reset_inv _
  | rejects => exact hinv.raise _
  | completes _ completion => exact completion.keeps_inv s.params hinv

/-- Settles O51: the invariant says that the keys are those of the searches, and on a totient of 3 or more
the searches find the least coprime and its least inverse. -/
theorem keyedInstanceIsValid : Obligations.KeyedInstanceIsValid := by
  intro s hinv hv hk hl
  obtain ⟨he, hd⟩ := (hinv.instance_built hv).keys hk
  obtain ⟨he2, helt, hgcd, hemin⟩ := findPublicExponent_spec hl
  rw [← he] at he2 helt hgcd hemin
  obtain ⟨hd1, hdlt, hinverse, hdmin⟩ :=
    findPrivateExponent_of_exists (exists_inverse (by omega) hgcd)
  rw [← hd] at hd1 hdlt hinverse hdmin
  exact ⟨he2, helt, hgcd, hd1, hdlt, hinverse, hemin, hdmin⟩

end Sys2Proof.Machine
end

section
/-! PROOFS. A command's result under the host's accesses: OVR is no input of any computation, and while a
command is in flight the host's turns change nothing else of the block (R26, R37, R41). -/

namespace Sys2Proof.Machine

/-- The checks of R87 read no OVR. -/
theorem cipherChecks_ovr {PW : Nat} (m : Mode) (b : Block PW) (o : Bool) :
    cipherChecks m { b with ovr := o } = cipherChecks m b := rfl

/-- A command's computation reads and writes no OVR (R26, R107). -/
theorem commandOf_ovr (i : Instr) (PW : Nat) (m : Mode) (b : Block PW) (o : Bool) :
    commandOf i PW m { b with ovr := o } =
      (commandOf i PW m b).map fun b' => { b' with ovr := o } := by
  cases i with
  | build =>
    simp only [commandOf, buildCommand]
    split_ifs <;> rfl
  | genkey =>
    simp only [commandOf, genkeyCommand]
    split_ifs <;> rfl
  | enc =>
    simp only [commandOf, encCommand, cipherChecks_ovr]
    cases cipherChecks m b with
    | some c => rfl
    | none =>
      dsimp only
      split_ifs <;> rfl
  | dec =>
    simp only [commandOf, decCommand, cipherChecks_ovr]
    cases cipherChecks m b with
    | some c => rfl
    | none =>
      dsimp only
      cases codepointToChar (modexp b.din.toNat b.d.toNat b.n.toNat) <;> rfl

/-- The block that the sequencer makes of a word in flight (R50, R103). -/
def Block.completed {PW : Nat} (b : Block PW) (w : Word PW) (m : Mode) : Block PW :=
  match decode w with
  | .ok i => b.finish (commandOf i PW m b)
  | .error _ => b.raise .illegalCommand

/-- The sequencer's turn with a word in flight leaves the completed block. -/
theorem sequencerTurn_busy {s : State} {w : Word s.params.PW} {m : Mode}
    (h : s.block.seq = .busy w m) :
    sequencerTurn s = .next (s.setBlock (s.block.completed w m)) := by
  unfold Block.completed
  cases hd : decode w with
  | ok i => rw [sequencerTurn_ok h hd, exec_eq_complete, complete_busy h]
  | error r => rw [sequencerTurn_error h hd]

/-- OVR passes through a completion, and the rest of its result does not depend on it. -/
theorem Block.completed_ovr {PW : Nat} (b : Block PW) (w : Word PW) (m : Mode) (o : Bool) :
    ({ b with ovr := o } : Block PW).completed w m = { b.completed w m with ovr := o } := by
  unfold Block.completed
  cases decode w with
  | error r => rfl
  | ok i =>
    dsimp only
    rw [commandOf_ovr]
    cases commandOf i PW m b <;> rfl

/-- While a command is in flight a host turn changes the host's own fields and OVR, and nothing else. -/
theorem hostTurn_of_busy {s : State} (h : s.block.busy = true) :
    ∃ o ops log, hostTurn s =
      { s with block := { s.block with ovr := o }, program := ops, readLog := log } := by
  rcases hostTurn_cases s with ⟨-, e⟩ | ⟨a, ops, -, e⟩ | ⟨a, v, ops, -, e⟩ | ⟨ops, -, e⟩
  · exact ⟨_, _, _, e⟩
  · exact ⟨_, _, _, e⟩
  · obtain ⟨o, ho⟩ := hostWrite_of_busy h a v
    exact ⟨o, ops, _, by rw [e, ho]⟩
  · exact ⟨_, _, _, e⟩

/-- While a command is in flight any number of host turns change the host's own fields and OVR, and
nothing else. -/
theorem run_hostTurns_of_busy {s : State} (h : s.block.busy = true) (n : Nat) (ts : List Turn) :
    ∃ o ops log,
      Host.Core.run Sys2Proof.core n (s.setSchedule (List.replicate n .host ++ ts)) =
        .next { s with
          schedule := ts, block := { s.block with ovr := o }, program := ops, readLog := log } := by
  induction n generalizing s with
  | zero => exact ⟨_, _, _, rfl⟩
  | succ n ih =>
    obtain ⟨o, ops, log, hturn⟩ :=
      hostTurn_of_busy (s := s.setSchedule (List.replicate n .host ++ ts)) h
    have hstep : step (s.setSchedule (List.replicate (n + 1) .host ++ ts)) = _ :=
      (step_host rfl).trans (congrArg _ hturn)
    obtain ⟨o', ops', log', hrun⟩ := ih (s := { s with
      block := { s.block with ovr := o }, program := ops, readLog := log }) h
    exact ⟨o', ops', log', (run_succ hstep).trans hrun⟩

/-- Settles O53: the host's turns leave the command in flight and all it reads, and its completion passes
OVR through. -/
theorem resultIndependentOfInterleaving : Obligations.ResultIndependentOfInterleaving := by
  intro s w m n rest hseq
  obtain ⟨o, ops, log, hrun⟩ :=
    run_hostTurns_of_busy (Block.busy_eq_true.2 ⟨w, m, hseq⟩) n (.sequencer :: rest)
  refine ⟨s.block.completed w m, o, ops, log, ?_, ?_⟩
  · exact (step_sequencer rfl).trans (sequencerTurn_busy (s := s.setSchedule rest) hseq)
  · rw [run_append hrun, ← Block.completed_ovr]
    refine run_one ((step_sequencer rfl).trans ?_)
    exact sequencerTurn_busy (s := { s with
      schedule := rest, block := { s.block with ovr := o }, program := ops, readLog := log }) hseq

end Sys2Proof.Machine
end

section
/-! PROOFS. The host's accesses as steps: a read, and a write in IDLE and with a command in flight (R34 to
R37); and the word that `withFetchWord` puts in flight (R36, R43). -/

namespace Sys2Proof.Machine

/-! ### Reads -/

/-- Settles O38: an access changes what `hostAccess` says, and a read's is the log alone. -/
theorem hostReadChangesNothing : Obligations.HostReadChangesNothing := by
  intro s a ops h
  exact step_access h

/-! ### Writes -/

/-- A step in which the host writes leaves the block that the write makes. -/
theorem step_write {s : State} {a : Addr} {v : Word s.params.PW} {ops : List (HostOp s.params.PW)}
    (h : AccessNext s (.write a v) ops) :
    step s = .next { s with
      schedule := s.schedule.tail, program := ops, block := s.block.hostWrite a v } :=
  step_access h

/-- In IDLE no write is dropped (R37). -/
theorem Block.unlessBusy_of_idle {PW : Nat} {b : Block PW} (h : b.seq = .idle) (b' : Block PW) :
    b.unlessBusy b' = b' := by
  rw [Block.unlessBusy, Block.busy_eq_false.2 h]
  rfl

/-- In IDLE a write to CMD is the issue of the word (R36). -/
theorem hostWrite_cmd_of_idle {PW : Nat} {b : Block PW} (h : b.seq = .idle) (v : Word PW) :
    b.hostWrite (slotOf .cmd) v = b.issue v :=
  Block.unlessBusy_of_idle h _

/-- Settles O33: in IDLE the block that a write to CMD makes is the issue of the word. -/
theorem cmdWriteIssues : Obligations.CmdWriteIssues := by
  intro s v ops hidle h
  have hblock : s.block.hostWrite 0x2 v = s.block.issue v := hostWrite_cmd_of_idle hidle v
  rw [step_write h, hblock]
  rfl

/-- MODE takes bit 0 of the written word (R17). -/
theorem ofBit_getLsbD_zero {n : Nat} (v : BitVec n) :
    Mode.ofBit (v.getLsbD 0) = if v.toNat % 2 = 1 then .strict else .legacy := by
  rw [BitVec.getLsbD, Nat.testBit_zero]
  split_ifs with h <;> simp [h, Mode.ofBit]

/-- Bit 4 of the written word clears OVR (R18). -/
theorem Block.clearOvrIf_getLsbD_four {PW : Nat} (b : Block PW) (v : Word PW) :
    b.clearOvrIf (v.getLsbD 4) =
      { b with ovr := if v.toNat / 16 % 2 = 1 then false else b.ovr } := by
  rw [Block.clearOvrIf, BitVec.getLsbD, Nat.testBit_eq_decide_div_mod_eq]
  split_ifs with h <;> simp [h]

/-- What a write to any slot but CMD makes of a block in IDLE (R35). -/
theorem WriteEffect.eq_of_idle {PW : Nat} {b b' : Block PW} {v : Word PW} {a : Addr}
    (h : WriteEffect b v a b') (hb : b.seq = .idle) (ha : a ≠ 0x2) :
    b' =
      if a = 0x0 then { b with mode := if v.toNat % 2 = 1 then .strict else .legacy }
      else if a = 0x1 then { b with ovr := if v.toNat / 16 % 2 = 1 then false else b.ovr }
      else if a = 0x3 then { b with pIn := v }
      else if a = 0x4 then { b with qIn := v }
      else if a = 0xB then { b with din := v }
      else b := by
  cases h with
  | dropped busy => exact absurd busy (by simp [Block.busy_eq_false.2 hb])
  | cmd => exact absurd rfl ha
  | ctrl => rw [ofBit_getLsbD_zero]; rfl
  | status => rw [Block.clearOvrIf_getLsbD_four]; rfl
  | pIn | qIn | din => rfl
  | ignored unguarded notStatus =>
    simp only [Guarded, not_or] at unguarded
    obtain ⟨h0, -, h3, h4, hB⟩ := unguarded
    have h1 : a ≠ 0x1 := notStatus
    rw [if_neg h0, if_neg h1, if_neg h3, if_neg h4, if_neg hB]

/-- What a write to any slot makes of a block with a command in flight (R37). -/
theorem WriteEffect.eq_of_busy {PW : Nat} {b b' : Block PW} {v : Word PW} {a : Addr}
    (h : WriteEffect b v a b') (hb : b.busy = true) :
    b' =
      if a = 0x0 ∨ a = 0x2 ∨ a = 0x3 ∨ a = 0x4 ∨ a = 0xB then { b with ovr := true }
      else if a = 0x1 then { b with ovr := if v.toNat / 16 % 2 = 1 then false else b.ovr }
      else b := by
  cases h with
  | dropped _ guarded => exact (if_pos guarded).symm
  | status => rw [Block.clearOvrIf_getLsbD_four]; rfl
  | ctrl idle | cmd idle | pIn idle | qIn idle | din idle => exact absurd hb (by simp [idle])
  | ignored unguarded notStatus => exact ((if_neg unguarded).trans (if_neg notStatus)).symm

/-- Settles O34: in IDLE each effect of a write is the one of its slot. -/
theorem idleHostWrites : Obligations.IdleHostWrites := by
  intro s a v ops hidle h ha
  rw [step_write h, (hostWrite_effect s.block a v).eq_of_idle hidle ha]

/-- Settles O35: with a command in flight a write is dropped at a guarded slot, honoured at STATUS, and
ignored elsewhere. -/
theorem busyHostWrites : Obligations.BusyHostWrites := by
  intro s a v ops hbusy h
  rw [step_write h, (hostWrite_effect s.block a v).eq_of_busy hbusy]

/-! ### The word put in flight -/

/-- The word put in flight gets the next turn, with and without a schedule. -/
theorem fetchable_nextTurn (s : State) (w : Word s.params.PW) :
    (fetchable s w).nextTurn = .sequencer := by
  cases hs : s.schedule with
  | nil => exact nextTurn_nil_busy (by simp [fetchable, hs]) rfl
  | cons t ts => exact nextTurn_cons (ts := t :: ts) (by simp [fetchable, hs])

/-- With that turn taken off, only the issue is left of it. -/
theorem fetchable_setSchedule_tail (s : State) (w : Word s.params.PW) :
    (fetchable s w).setSchedule (fetchable s w).schedule.tail = s.setBlock (s.block.issue w) := by
  have htail : (fetchable s w).schedule.tail = s.schedule := by
    cases hs : s.schedule <;> simp [fetchable, hs]
  rw [htail]
  rfl

/-- Settles O47: the turn after the issue is the sequencer's, which runs the command the word decodes
to. -/
theorem fetchWordRunsCommand : Obligations.FetchWordRunsCommand := by
  intro s nbits w i hd
  have hstep := step_completion (fetchable_nextTurn s _) rfl hd
  rw [fetchable_setSchedule_tail] at hstep
  exact hstep

end Sys2Proof.Machine
end

section
/-! PROOFS. The decoder: a word's fields as numbers, the words that decode to a command and the reserved
ones (R46, R47, R50, R51); and the completion of a word of no command (R104). -/

namespace Sys2Proof.Machine

/-! ### Fields -/

/-- RSV is 0 in the words of one byte (R46). -/
theorem rsvField_eq_zero_iff (c : Config.Params) (w : Word c.PW) : rsvField w = 0 ↔ w.toNat < 256 := by
  rw [← BitVec.toNat_inj, rsvField_toNat c]
  simp

/-- OPC is the whole of a word of one byte (R46). -/
theorem opcField_toNat_of_lt {PW : Nat} {w : Word PW} (h : w.toNat < 256) :
    (opcField w).toNat = w.toNat :=
  (opcField_toNat w).trans (Nat.mod_eq_of_lt h)

/-- A set RSV bit rejects a word whatever its OPC (R50). -/
theorem decode_of_ge (c : Config.Params) {w : Word c.PW} (h : 256 ≤ w.toNat) :
    decode w = .error .reservedBits :=
  if_pos fun h0 => absurd ((rsvField_eq_zero_iff c w).1 h0) (by omega)

/-- With RSV = 0 the operation code decides (R50). -/
theorem decode_of_lt (c : Config.Params) {w : Word c.PW} (h : w.toNat < 256) :
    decode w = ofOpcode (opcField w) :=
  if_neg (not_not.2 ((rsvField_eq_zero_iff c w).2 h))

/-! ### Operation codes -/

/-- A command's word has the value of its operation code (R47). -/
theorem encode_toNat (c : Config.Params) (i : Instr) : (encode c.PW i).toNat = (opcode i).toNat :=
  toNat_setWidth_width c (by decide) (opcode i)

/-- An operation code selects a command exactly when it is that command's (R47). -/
theorem ofOpcode_eq_ok_iff {opc : BitVec 8} {i : Instr} : ofOpcode opc = .ok i ↔ opc = opcode i := by
  constructor
  · intro h
    unfold ofOpcode at h
    split_ifs at h with h1 h2 h3 h4
    all_goals
      cases h
      assumption
  · rintro rfl
    cases i <;> rfl

/-- The reserved operation codes are 0 and those from 5 on (R51). -/
theorem ofOpcode_eq_error_iff {opc : BitVec 8} {r : Reject} :
    ofOpcode opc = .error r ↔ r = .reservedOpcode ∧ (opc.toNat = 0 ∨ 5 ≤ opc.toNat) := by
  unfold ofOpcode
  split_ifs with h1 h2 h3 h4
  · simp [h1]
  · simp [h2]
  · simp [h3]
  · simp [h4]
  · have hrange : opc.toNat = 0 ∨ 5 ≤ opc.toNat := by bv_omega
    rw [Except.error.injEq, eq_comm, and_iff_left hrange]

/-! ### Words -/

/-- Settles O27: with RSV = 0 the word is its operation code, which selects the command; with a set RSV
bit it is no command's word. -/
theorem decodeAndEncodeAgree : Obligations.DecodeAndEncodeAgree := by
  intro c w i
  rw [← BitVec.toNat_inj, encode_toNat]
  rcases Nat.lt_or_ge w.toNat 256 with h | h
  · rw [decode_of_lt c h, ofOpcode_eq_ok_iff, ← BitVec.toNat_inj, opcField_toNat_of_lt h]
  · have hopc := (opcode i).isLt
    rw [decode_of_ge c h]
    exact iff_of_false nofun (by omega)

/-- Settles O28: RSV is checked first, and with RSV = 0 the reserved operation codes are left. -/
theorem reservedWordsRejectedByName : Obligations.ReservedWordsRejectedByName := by
  intro c w
  rcases Nat.lt_or_ge w.toNat 256 with h | h
  · rw [decode_of_lt c h]
    simp only [ofOpcode_eq_error_iff, opcField_toNat_of_lt h]
    simp [h]
  · rw [decode_of_ge c h]
    simp [h]

/-- Settles O29: the decoder runs on each of the words. -/
theorem specWordsDecode : Obligations.SpecWordsDecode := by
  unfold Obligations.SpecWordsDecode
  decide

/-- The reserved words are 0 and those from 5 on (R51). -/
theorem decode_reserved (c : Config.Params) {w : Word c.PW} (h : w.toNat = 0 ∨ 5 ≤ w.toNat) :
    ∃ r, decode w = .error r := by
  obtain ⟨hrsv, hopc⟩ := reservedWordsRejectedByName c w
  rcases Nat.lt_or_ge w.toNat 256 with hlt | hge
  · exact ⟨_, hopc.2 ⟨hlt, h⟩⟩
  · exact ⟨_, hrsv.2 hge⟩

/-- Settles O31: a reserved word decodes to no command, and the sequencer raises the error. -/
theorem illegalWordCompletes : Obligations.IllegalWordCompletes := by
  intro s w m hseq hnext hw
  obtain ⟨r, hr⟩ := decode_reserved s.params hw
  exact (step_sequencer hnext).trans
    (sequencerTurn_error (s := s.setSchedule s.schedule.tail) hseq hr)

end Sys2Proof.Machine
end

section
/-! PROOFS. Runs without end, and the loop of `wait` under every schedule without a reset (R54, R103,
R126). -/

namespace Sys2Proof.Machine

/-- Settles O48: every step answers a next state, so every run does. -/
theorem everyRunIsSafe : Obligations.EveryRunIsSafe := by
  intro s k
  induction k generalizing s with
  | zero => exact ⟨s, rfl⟩
  | succ k ih =>
    obtain ⟨t, ht⟩ := step_total s
    obtain ⟨u, hu⟩ := ih t
    exact ⟨u, (run_succ ht).trans hu⟩

/-! ### One step of a run -/

/-- Bit 0 of a read of STATUS as a number is BUSY (R18). -/
theorem statusRead_mod_two (c : Config.Params) (b : Block c.PW) :
    (b.hostRead (slotOf .status)).toNat % 2 = 1 ↔ b.busy = true := by
  rw [← statusRead_busy c.legal b, BitVec.getLsbD, Nat.testBit_zero, decide_eq_true_eq]

/-- The block that a completion leaves is IDLE and shows DONE (R103). -/
theorem Block.completed_idle_done {PW : Nat} (b : Block PW) (w : Word PW) (m : Mode) :
    (b.completed w m).busy = false ∧ (b.completed w m).done = true := by
  unfold Block.completed
  cases decode w with
  | error r => exact ⟨rfl, rfl⟩
  | ok i =>
    dsimp only
    cases commandOf i PW m b <;> exact ⟨rfl, rfl⟩

/-- The sequencer's turn with a command in flight leaves a completed block and changes nothing else of
the state. -/
theorem step_completed {s : State} (hn : s.nextTurn = .sequencer) (hb : s.block.busy = true) :
    ∃ b : Block s.params.PW, b.busy = false ∧ b.done = true ∧
      step s = .next { s with schedule := s.schedule.tail, block := b } := by
  obtain ⟨w, m, hseq⟩ := Block.busy_eq_true.1 hb
  obtain ⟨hidle, hdone⟩ := s.block.completed_idle_done w m
  exact ⟨_, hidle, hdone, (step_sequencer hn).trans
    (sequencerTurn_busy (s := s.setSchedule s.schedule.tail) hseq)⟩

/-- What a program comes to after a step: the reads of the step come before the rest's. -/
theorem Performs.of_step {s : State} {ts : List Turn} {ops ops' : List (HostOp s.params.PW)}
    {b b' : Block s.params.PW} {reads reads' : List (Addr × Word s.params.PW)}
    (h : step s = .next { s with
      schedule := ts, program := ops', block := b', readLog := reads'.reverse ++ s.readLog })
    (hrest : Performs { s with
      schedule := ts, program := ops', block := b', readLog := reads'.reverse ++ s.readLog }
      ops b reads) :
    Performs s ops b (reads' ++ reads) := by
  obtain ⟨k, ts', hrun⟩ := hrest
  refine ⟨k + 1, ts', ?_⟩
  rw [run_succ h, hrun]
  simp

/-! ### The loop of `wait` -/

section

variable {s : State} {ops : List (HostOp s.params.PW)}

/-- In IDLE a round of `wait` is its last (R54). -/
theorem performs_poll_of_host (hp : s.program = .poll :: ops) (hb : s.block.busy = false)
    (hn : s.nextTurn = .host) :
    Performs s ops s.block [(slotOf .status, s.block.hostRead (slotOf .status))] := by
  refine ⟨1, s.schedule.tail, run_one ?_⟩
  rw [step_poll hn hp, hb]
  rfl

/-- In IDLE `wait` makes one read, in the host's next turn (R54). -/
theorem performs_poll_of_idle (hp : s.program = .poll :: ops) (hb : s.block.busy = false)
    (hr : .reset ∉ s.schedule) :
    Performs s ops s.block [(slotOf .status, s.block.hostRead (slotOf .status))] := by
  induction hts : s.schedule generalizing s with
  | nil => exact performs_poll_of_host hp hb (nextTurn_nil_idle hts hb)
  | cons t ts ih =>
    have hn := nextTurn_cons hts
    cases t with
    | host => exact performs_poll_of_host hp hb hn
    | reset => exact absurd (hts ▸ List.mem_cons_self) hr
    | sequencer =>
      have hstep : step s = .next (s.setSchedule ts) := by
        rw [step_sequencer hn, hts]
        exact sequencerTurn_idle (Block.busy_eq_false.1 hb)
      refine Performs.of_step (reads' := []) hstep (ih (s := s.setSchedule ts) hp hb ?_ rfl)
      exact fun h => hr (hts ▸ List.mem_cons_of_mem _ h)

/-- A completion while the host waits: one read follows it (R54). -/
theorem performs_poll_of_sequencer (hp : s.program = .poll :: ops) (hb : s.block.busy = true)
    (hr : .reset ∉ s.schedule) (hn : s.nextTurn = .sequencer) :
    ∃ b : Block s.params.PW, b.busy = false ∧ b.done = true ∧
      Performs s ops b [(slotOf .status, b.hostRead (slotOf .status))] := by
  obtain ⟨b, hidle, hdone, hstep⟩ := step_completed hn hb
  refine ⟨b, hidle, hdone, Performs.of_step (reads' := []) hstep ?_⟩
  exact performs_poll_of_idle (s := { s with schedule := s.schedule.tail, block := b }) hp hidle
    fun h => hr (List.mem_of_mem_tail h)

/-- With a command in flight `wait` reads STATUS until the completion, and once after it (R54, R126). -/
theorem performs_poll_of_busy (hp : s.program = .poll :: ops) (hb : s.block.busy = true)
    (hr : .reset ∉ s.schedule) :
    ∃ (b : Block s.params.PW) (n : Nat), b.busy = false ∧ b.done = true ∧
      Performs s ops b
        (List.replicate n (slotOf .status, s.block.hostRead (slotOf .status)) ++
          [(slotOf .status, b.hostRead (slotOf .status))]) := by
  induction hts : s.schedule generalizing s with
  | nil =>
    obtain ⟨b, h⟩ := performs_poll_of_sequencer hp hb hr (nextTurn_nil_busy hts hb)
    exact ⟨b, 0, h⟩
  | cons t ts ih =>
    have hn := nextTurn_cons hts
    cases t with
    | sequencer =>
      obtain ⟨b, h⟩ := performs_poll_of_sequencer hp hb hr hn
      exact ⟨b, 0, h⟩
    | reset => exact absurd (hts ▸ List.mem_cons_self) hr
    | host =>
      have hstep := step_poll hn hp
      rw [if_pos hb, hts] at hstep
      obtain ⟨b, n, hidle, hdone, hrest⟩ := ih (s := { s with
        schedule := ts
        program := .poll :: ops
        readLog := (slotOf .status, s.block.hostRead (slotOf .status)) :: s.readLog }) rfl hb
        (fun h => hr (hts ▸ List.mem_cons_of_mem _ h)) rfl
      exact ⟨b, n + 1, hidle, hdone, Performs.of_step (reads' := [_]) hstep hrest⟩

end

/-- Settles O59: a round of `wait`, and its end. -/
theorem waitLoopsUntilDone : Obligations.WaitLoopsUntilDone := by
  intro s ops hp
  refine ⟨fun hn => ?_, performs_poll_of_busy hp⟩
  simp only [step_poll hn hp, ← statusRead_mod_two s.params]
  rfl

end Sys2Proof.Machine
end

section
/-! PROOFS. BUILD as one completion: its whole next state on operands that R66 admits and on operands that
it refuses, and where the totient of an admitted BUILD is degenerate (R66, R68, R69). -/

namespace Sys2Proof.Machine

/-- Settles O1: it is the whole next state of an admitted BUILD. -/
theorem buildConstructsInstance : Obligations.BuildConstructsInstance :=
  fun _ _ _ hseq hadm => exec_build_of_admitted hseq hadm

/-- Operands that fail one of the checks of R66 are not admitted. -/
theorem not_admitted_of_refused {PW p q : Nat} {m : Mode}
    (h : p ≥ 2 ^ PW ∨ q ≥ 2 ^ PW ∨ p = 0 ∨ q = 0 ∨ (p = 1 ∧ q = 1) ∨
      (m = .strict ∧ (p = 1 ∨ q = 1))) : ¬Admitted PW m p q := by
  rw [admitted_iff]
  tauto

/-- Settles O4: BUILD's computation is the error, and raising it writes STATUS and the sequencer only. -/
theorem buildRefusesInadmissible : Obligations.BuildRefusesInadmissible := by
  intro s w m hseq hrefused
  rw [exec_eq_complete, complete_busy hseq, commandOf,
    buildCommand_of_not_admitted (not_admitted_of_refused hrefused)]
  rfl

/-- An lcm is at most 2 exactly when it is 0 or that of two numbers out of 1 and 2 (R69). -/
theorem lcm_le_two_iff (a b : Nat) :
    Nat.lcm a b ≤ 2 ↔ Nat.lcm a b = 0 ∨ ((a = 1 ∨ a = 2) ∧ (b = 1 ∨ b = 2)) := by
  constructor
  · intro hle
    refine or_iff_not_imp_left.2 fun hne => ?_
    have hpos := Nat.pos_of_ne_zero hne
    have ha := Nat.le_of_dvd hpos (Nat.dvd_lcm_left a b)
    have hb := Nat.le_of_dvd hpos (Nat.dvd_lcm_right a b)
    have ha0 : a ≠ 0 := fun h => hne (Nat.lcm_eq_zero_iff.2 (.inl h))
    have hb0 : b ≠ 0 := fun h => hne (Nat.lcm_eq_zero_iff.2 (.inr h))
    omega
  · rintro (h0 | ⟨rfl | rfl, rfl | rfl⟩)
    · omega
    all_goals decide

/-- Settles O3: L is exactly the lcm of p - 1 and q - 1, which is 0 when one of them is, and else no
smaller than either. -/
theorem buildDegenerateExactly : Obligations.BuildDegenerateExactly := by
  intro s w m hseq hadm
  obtain ⟨t, hexec, -, hl, hn, -⟩ := buildResultsAreExact s w m hseq hadm
  obtain ⟨-, -, hp, hq, -, hstrict⟩ := hadm
  have hzero : t.block.l.toNat = 0 ↔ s.block.pIn.toNat = 1 ∨ s.block.qIn.toNat = 1 := by
    rw [hl, Nat.lcm_eq_zero_iff]
    omega
  refine ⟨t, hexec, hn, hzero, fun h0 => ?_, ?_⟩
  · cases m with
    | legacy => rfl
    | strict =>
      obtain ⟨hp1, hq1⟩ := hstrict rfl
      exact absurd (hzero.1 h0) (not_or.2 ⟨hp1, hq1⟩)
  · rw [hl, lcm_le_two_iff]
    omega

end Sys2Proof.Machine
end


section
/-! PROOFS. What a run comes to under every schedule without a reset, one part of the host's program after
another: a write in IDLE, the loop of `wait` with a command in flight, and `construct` (R41, R54, R70).
`Performs` forgets that the schedule left holds no reset, so that parts do not chain; `LeadsTo` keeps it. -/

namespace Sys2Proof.Machine

/-! ### Runs without a reset -/

/-- Without a reset in the schedule, the run from `s` comes to a state with `P`, still without a reset in
the rest of the schedule. -/
def LeadsTo (s : State) (P : State → Prop) : Prop :=
  .reset ∉ s.schedule →
    ∃ k t, Host.Core.run Sys2Proof.core k s = .next t ∧ .reset ∉ t.schedule ∧ P t

section LeadsTo

variable {s : State} {P Q : State → Prop}

/-- A run of no step. -/
theorem LeadsTo.refl (h : P s) : LeadsTo s P := fun hr => ⟨0, s, rfl, hr, h⟩

/-- A run goes on where a shorter one has come to. -/
theorem LeadsTo.trans (h : LeadsTo s P) (hrest : ∀ t, P t → LeadsTo t Q) : LeadsTo s Q := by
  intro hr
  obtain ⟨k, t, hrun, hrt, ht⟩ := h hr
  obtain ⟨j, u, hrun', hru, hu⟩ := hrest t ht hrt
  exact ⟨k + j, u, (run_append hrun).trans hrun', hru, hu⟩

/-- A run goes on after its first step, which takes a turn off the schedule. -/
theorem LeadsTo.of_step {t : State} (h : step s = .next t) (ht : t.schedule = s.schedule.tail)
    (hrest : LeadsTo t P) : LeadsTo s P := by
  intro hr
  obtain ⟨k, u, hrun, hu⟩ := hrest (ht ▸ fun hmem => hr (List.mem_of_mem_tail hmem))
  exact ⟨k + 1, u, (run_succ h).trans hrun, hu⟩

/-- A next turn that is a reset is one in the schedule, which `LeadsTo` leaves out. -/
theorem LeadsTo.of_reset_next {ts : List Turn} (h : s.schedule = .reset :: ts) : LeadsTo s P :=
  fun hr => absurd (h ▸ List.mem_cons_self) hr

end LeadsTo

/-! ### The host's turn in IDLE -/

/-- The host's turn neither reads nor changes the schedule. -/
theorem hostTurn_setSchedule (s : State) (ts : List Turn) :
    hostTurn (s.setSchedule ts) = (hostTurn s).setSchedule ts := by
  obtain ⟨params, block, program, schedule, readLog⟩ := s
  cases program with
  | nil => rfl
  | cons op ops =>
    cases op with
    | poll => rfl
    | access t => cases t <;> rfl

/-- In the host's turn the host takes it. -/
theorem leadsTo_hostTurn_of_host {s : State} (hn : s.nextTurn = .host) :
    LeadsTo s fun t => ∃ ts, t = (hostTurn s).setSchedule ts := by
  have hstep := (step_host hn).trans (congrArg _ (hostTurn_setSchedule s s.schedule.tail))
  exact .of_step hstep rfl (.refl ⟨_, rfl⟩)

/-- In IDLE the host's turn comes, since a turn of the idle sequencer changes nothing. -/
theorem leadsTo_hostTurn {s : State} (hidle : s.block.seq = .idle) :
    LeadsTo s fun t => ∃ ts, t = (hostTurn s).setSchedule ts := by
  induction hts : s.schedule generalizing s with
  | nil => exact leadsTo_hostTurn_of_host (nextTurn_nil_idle hts (Block.busy_eq_false.2 hidle))
  | cons turn ts ih =>
    have hn := nextTurn_cons hts
    cases turn with
    | host => exact leadsTo_hostTurn_of_host hn
    | reset => exact .of_reset_next hts
    | sequencer =>
      have hstep : step s = .next (s.setSchedule s.schedule.tail) :=
        (step_sequencer hn).trans (sequencerTurn_idle hidle)
      have hrest := ih (s := s.setSchedule s.schedule.tail) hidle (by simp [hts])
      simp only [hostTurn_setSchedule] at hrest
      exact .of_step hstep rfl hrest

/-- In IDLE a host write leaves the block that it makes. -/
theorem leadsTo_write {s : State} {a : Addr} {v : Word s.params.PW} {b : Block s.params.PW}
    {ops : List (HostOp s.params.PW)} (hidle : s.block.seq = .idle)
    (hp : s.program = .access (.write a v) :: ops) (hw : s.block.hostWrite a v = b) :
    LeadsTo s fun t => ∃ ts, t = { s with schedule := ts, program := ops, block := b } := by
  have hturn : hostTurn s = { s with program := ops, block := b } := by
    simp [hostTurn, hp, hostAccess, hw]
  simpa only [hturn] using leadsTo_hostTurn hidle

/-- In IDLE a round of `wait` is its last (R54). -/
theorem leadsTo_wait_of_idle {s : State} {ops : List (HostOp s.params.PW)}
    (hidle : s.block.seq = .idle) (hp : s.program = .poll :: ops) :
    LeadsTo s fun t => ∃ ts, t = { s with
      schedule := ts
      program := ops
      readLog := (slotOf .status, s.block.hostRead (slotOf .status)) :: s.readLog } := by
  have hturn : hostTurn s = { s with
      program := ops
      readLog := (slotOf .status, s.block.hostRead (slotOf .status)) :: s.readLog } := by
    simp [hostTurn, hp, pollRound, hostAccess, statusRead_busy s.params.legal,
      Block.busy_eq_false.2 hidle]
  simpa only [hturn] using leadsTo_hostTurn hidle

/-! ### The loop of `wait` with a command in flight -/

/-- The reads of a `wait`, oldest first: `n` of a block with a command in flight, and the last one, of the
block that its completion leaves (R54). -/
def waitReads {PW : Nat} (n : Nat) (inFlight completed : Block PW) : List (Addr × Word PW) :=
  List.replicate n (slotOf .status, inFlight.hostRead (slotOf .status)) ++
    [(slotOf .status, completed.hostRead (slotOf .status))]

/-- One more round is one read before the others. -/
theorem waitReads_succ {PW : Nat} (n : Nat) (b b' : Block PW) :
    waitReads (n + 1) b b' = (slotOf .status, b.hostRead (slotOf .status)) :: waitReads n b b' := rfl

/-- `t` is where the `wait` of `s` ends, at the block `b` and before `ops`: only the reads that it took
and the schedule left are open. -/
def WaitEnds (s : State) (ops : List (HostOp s.params.PW)) (b : Block s.params.PW) (t : State) : Prop :=
  ∃ n ts, t = { s with
    schedule := ts
    program := ops
    block := b
    readLog := (waitReads n s.block b).reverse ++ s.readLog }

section Wait

variable {s : State} {ops : List (HostOp s.params.PW)} {w : Word s.params.PW} {m : Mode}

/-- A completion while the host waits: the loop's last read follows it (R54). -/
theorem leadsTo_wait_of_sequencer (hseq : s.block.seq = .busy w m) (hp : s.program = .poll :: ops)
    (hn : s.nextTurn = .sequencer) : LeadsTo s (WaitEnds s ops (s.block.completed w m)) := by
  obtain ⟨hidle, -⟩ := s.block.completed_idle_done w m
  have hstep := (step_sequencer hn).trans
    (sequencerTurn_busy (s := s.setSchedule s.schedule.tail) hseq)
  refine .of_step hstep rfl (.trans (leadsTo_wait_of_idle (Block.busy_eq_false.1 hidle) hp) ?_)
  rintro _ ⟨ts, rfl⟩
  exact .refl ⟨0, ts, rfl⟩

/-- With a command in flight `wait` ends right after its completion, at the block that this leaves (R54,
R126). -/
theorem leadsTo_wait (hseq : s.block.seq = .busy w m) (hp : s.program = .poll :: ops) :
    LeadsTo s (WaitEnds s ops (s.block.completed w m)) := by
  have hbusy := Block.busy_eq_true.2 ⟨w, m, hseq⟩
  induction hts : s.schedule generalizing s with
  | nil => exact leadsTo_wait_of_sequencer hseq hp (nextTurn_nil_busy hts hbusy)
  | cons turn ts ih =>
    have hn := nextTurn_cons hts
    cases turn with
    | sequencer => exact leadsTo_wait_of_sequencer hseq hp hn
    | reset => exact .of_reset_next hts
    | host =>
      have hstep := step_poll hn hp
      rw [if_pos hbusy] at hstep
      have hrest := ih (s := { s with
        schedule := s.schedule.tail
        program := .poll :: ops
        readLog := (slotOf .status, s.block.hostRead (slotOf .status)) :: s.readLog })
        hseq rfl hbusy (by simp [hts])
      refine .of_step hstep rfl (hrest.trans ?_)
      rintro _ ⟨n, ts', rfl⟩
      exact .refl ⟨n + 1, ts', by simp [waitReads_succ]⟩

end Wait

/-- A command issued in IDLE with its `wait` comes to the block that its completion leaves. -/
theorem leadsTo_issue_wait {s : State} {v : Word s.params.PW} {ops : List (HostOp s.params.PW)}
    (hidle : s.block.seq = .idle)
    (hp : s.program = .access (.write (slotOf .cmd) v) :: .poll :: ops) :
    LeadsTo s (WaitEnds (s.setBlock (s.block.issue v)) ops
      ((s.block.issue v).completed v s.block.mode)) := by
  refine .trans (leadsTo_write hidle hp (hostWrite_cmd_of_idle hidle v)) ?_
  rintro _ ⟨ts, rfl⟩
  exact leadsTo_wait (s := { s with
    schedule := ts, program := .poll :: ops, block := s.block.issue v }) rfl rfl

/-! ### `construct` -/

/-- A command's word decodes to the command (R47, R50). -/
theorem decode_encode (c : Config.Params) (i : Instr) : decode (encode c.PW i) = .ok i :=
  (decodeAndEncodeAgree c _ i).2 rfl

/-- The completion of an admitted BUILD leaves the instance of its operands (R68, R103). -/
theorem completed_build_of_admitted (c : Config.Params) {m : Mode} {b : Block c.PW}
    (h : Admitted c.PW m b.pIn.toNat b.qIn.toNat) :
    b.completed (encode c.PW .build) m = (b.writeInstance (b.pIn.toNat * b.qIn.toNat)
      (Nat.lcm (b.pIn.toNat - 1) (b.qIn.toNat - 1))).succeed := by
  rw [Block.completed, decode_encode]
  dsimp only [commandOf]
  rw [buildCommand_of_admitted h]
  rfl

/-- In IDLE a write to P_IN stores the word (R35). -/
theorem hostWrite_pIn_of_idle {PW : Nat} {b : Block PW} (h : b.seq = .idle) (v : Word PW) :
    b.hostWrite (slotOf .pIn) v = { b with pIn := v } :=
  Block.unlessBusy_of_idle h _

/-- In IDLE a write to Q_IN stores the word (R35). -/
theorem hostWrite_qIn_of_idle {PW : Nat} {b : Block PW} (h : b.seq = .idle) (v : Word PW) :
    b.hostWrite (slotOf .qIn) v = { b with qIn := v } :=
  Block.unlessBusy_of_idle h _

/-- The block at which the BUILD of `construct p, q` is in flight (R70). -/
def Block.constructIssued {PW : Nat} (b : Block PW) (p q : Value) : Block PW :=
  Block.issue { b with pIn := BitVec.ofNat (2 * PW) p.toNat, qIn := BitVec.ofNat (2 * PW) q.toNat }
    (encode PW .build)

/-- `construct p, q` comes to the completion of a BUILD of `p` and `q`, whatever the operands (R70). -/
theorem leadsTo_construct {s : State} {p q : Value} {ops : List (HostOp s.params.PW)}
    (hidle : s.block.seq = .idle) (hp : s.program = expand s.params.PW (.construct p q) ++ ops) :
    LeadsTo s (WaitEnds (s.setBlock (s.block.constructIssued p q)) ops
      ((s.block.constructIssued p q).completed (encode s.params.PW .build) s.block.mode)) := by
  refine .trans (leadsTo_write hidle hp (hostWrite_pIn_of_idle hidle _)) ?_
  rintro _ ⟨ts, rfl⟩
  refine .trans (leadsTo_write hidle rfl (hostWrite_qIn_of_idle (by exact hidle) _)) ?_
  rintro _ ⟨ts', rfl⟩
  exact leadsTo_issue_wait hidle rfl

/-- What the `wait` of a state comes to is what its program performs. -/
theorem LeadsTo.performs {s : State} {ops : List (HostOp s.params.PW)} {b b' : Block s.params.PW}
    (h : LeadsTo s (WaitEnds (s.setBlock b) ops b')) (hr : .reset ∉ s.schedule) :
    ∃ n, Performs s ops b' (waitReads n b b') := by
  obtain ⟨k, _, hrun, -, n, ts, rfl⟩ := h hr
  exact ⟨n, k, ts, hrun⟩

/-- Settles O56: `construct` comes to the completion of its BUILD, and on admitted operands this leaves
their instance. -/
theorem constructSequenceBuildsInstance : Obligations.ConstructSequenceBuildsInstance := by
  intro s p q ops hidle hadm hr hp
  obtain ⟨hp_lt, hq_lt, -⟩ := id hadm
  have width {n : Nat} (h : n < 2 ^ s.params.PW) : n < 2 ^ (2 * s.params.PW) :=
    h.trans_le (Nat.pow_le_pow_right (by decide) (by omega))
  have hpIn : (s.block.constructIssued p q).pIn.toNat = p.toNat := toNat_ofNat_width (width hp_lt)
  have hqIn : (s.block.constructIssued p q).qIn.toNat = q.toNat := toNat_ofNat_width (width hq_lt)
  obtain ⟨n, hperforms⟩ := (leadsTo_construct hidle hp).performs hr
  rw [← hpIn, ← hqIn] at hadm ⊢
  have hinst := instanceInv_writeInstance s.params hadm
  obtain ⟨he, hd⟩ := hinst.sentinels rfl
  rw [completed_build_of_admitted s.params hadm] at hperforms
  exact ⟨_, _, hperforms, rfl, rfl, rfl, rfl, rfl, rfl, hinst.n_eq, hinst.l_eq, he, hd⟩

end Sys2Proof.Machine
end

section
/-! PROOFS. What the searches for the exponents find, and when they keep their sentinels (R75 to R78). -/

namespace Sys2Proof.Machine

/-- Settles O9: the range of the search is empty for l ≤ 2, and else the search finds the least coprime. -/
theorem publicExponentIsSmallestCoprime : Obligations.PublicExponentIsSmallestCoprime := by
  intro l
  refine ⟨fun hl => ⟨findPublicExponent_of_le_two hl, fun ⟨i, hi, hlt, _⟩ => by omega⟩, fun hl => ?_⟩
  obtain ⟨he, helt, hgcd, hmin⟩ := findPublicExponent_spec hl
  exact ⟨he, helt, hgcd, fun i hi _ h => hmin i hi h⟩

/-- Settles O10, from the two results of the search. -/
theorem privateExponentIsSmallestInverse : Obligations.PrivateExponentIsSmallestInverse := by
  intro e l
  refine ⟨fun h => ?_, findPrivateExponent_of_not_exists⟩
  obtain ⟨hd, hdlt, hinv, hmin⟩ := findPrivateExponent_of_exists h
  exact ⟨hd, hdlt, hinv, fun i hi _ h => hmin i hi h⟩

/-- The sentinel 2 has no inverse modulo a totient below 3, so that the decryption exponent is the
sentinel as well (R77). -/
theorem findPrivateExponent_two_of_le_two {l : Nat} (hl : l ≤ 2) : findPrivateExponent 2 l = 1 := by
  refine findPrivateExponent_of_not_exists fun ⟨i, hi, hlt, hinv⟩ => ?_
  obtain rfl : l = 2 := by omega
  omega

/-- Settles O11: the exponent found is a coprime of l, which has an inverse, and only one below l. -/
theorem exponentsExistAndInverseIsUnique : Obligations.ExponentsExistAndInverseIsUnique := by
  intro l
  constructor
  · intro hl
    obtain ⟨he, helt, hgcd, -⟩ := findPublicExponent_spec hl
    obtain ⟨hd, hdlt, hinv, -⟩ := findPrivateExponent_of_exists (exists_inverse (by omega) hgcd)
    exact ⟨he, helt, hgcd, hd, hdlt, hinv, fun d hlt h => (findPrivateExponent_unique hlt h).symm⟩
  · intro hl
    rw [findPublicExponent_of_le_two hl]
    exact ⟨rfl, findPrivateExponent_two_of_le_two hl⟩

/-- Settles O12: the algorithm ends with the gcd of e and l and a cofactor of it, and this cofactor is an
inverse exactly when the gcd is 1. -/
theorem euclidGivesSearchedInverse : Obligations.EuclidGivesSearchedInverse :=
  privateExponent_eq_findPrivateExponent

end Sys2Proof.Machine
end

section
/-! PROOFS. GENKEY as one completion: the keys it writes, its errors, the sentinels in LEGACY, a second
GENKEY after the first, and the keys of two instances of the same primes (R79 to R82). -/

namespace Sys2Proof.Machine

/-! ### The computation -/

section Command

variable {PW : Nat} {m : Mode} {b : Block PW}

/-- On an instance whose totient the mode accepts GENKEY writes the keys of the two searches (R79). -/
theorem genkeyCommand_of_accepted (hv : b.modValid = true) (hl : m = .strict → 3 ≤ b.l.toNat) :
    genkeyCommand PW m b = .ok (b.writeKeys (findPublicExponent b.l.toNat)
      (findPrivateExponent (findPublicExponent b.l.toNat) b.l.toNat)) := by
  rcases genkeyCommand_cases PW m b with ⟨h, -⟩ | ⟨-, h0⟩ | ⟨-, -, hm, hle⟩
  · rw [h, privateExponent_eq_findPrivateExponent]
  · simp [hv] at h0
  · have := hl hm
    omega

/-- Without an instance GENKEY is refused in both modes (R79). -/
theorem genkeyCommand_of_no_instance (hv : b.modValid = false) :
    genkeyCommand PW m b = .error .notConstructed := by
  rcases genkeyCommand_cases PW m b with ⟨-, h1, -⟩ | ⟨h, -⟩ | ⟨-, h1, -⟩
  · simp [hv] at h1
  · exact h
  · simp [hv] at h1

/-- In STRICT GENKEY is refused on an instance with a degenerate totient (R80). -/
theorem genkeyCommand_of_degenerate (hv : b.modValid = true) (hm : m = .strict)
    (hl : b.l.toNat ≤ 2) : genkeyCommand PW m b = .error .degenerateTotient := by
  rcases genkeyCommand_cases PW m b with ⟨-, -, hn⟩ | ⟨-, h0⟩ | ⟨h, -⟩
  · exact absurd ⟨hm, hl⟩ hn
  · simp [hv] at h0
  · exact h

end Command

/-! ### The completion -/

/-- A GENKEY in flight leaves the outcome of its computation (R103). -/
theorem exec_genkey_busy {s : State} {w : Word s.params.PW} {m : Mode}
    (hseq : s.block.seq = .busy w m) :
    exec .genkey s =
      .next (s.setBlock (s.block.finish (genkeyCommand s.params.PW m s.block))) := by
  rw [exec_eq_complete, complete_busy hseq, commandOf]

/-- Settles O5: an accepted totient's keys are written, and the completion writes STATUS and the sequencer
only. -/
theorem genkeyWritesSearchedKeys : Obligations.GenkeyWritesSearchedKeys := by
  intro s w m hseq hv hl
  rw [exec_genkey_busy hseq, genkeyCommand_of_accepted hv hl]
  rfl

/-- Settles O6: each refusal is raised, and raising it writes STATUS and the sequencer only. -/
theorem genkeyErrorsInOrder : Obligations.GenkeyErrorsInOrder := by
  intro s w m hseq
  rw [exec_genkey_busy hseq]
  constructor
  · intro hv
    rw [genkeyCommand_of_no_instance hv]
    rfl
  · intro hv hm hl
    rw [genkeyCommand_of_degenerate hv hm hl]
    rfl

/-- Settles O7: LEGACY accepts every totient, and on a degenerate one both searches keep their
sentinels. -/
theorem genkeyLegacyKeepsSentinels : Obligations.GenkeyLegacyKeepsSentinels := by
  intro s w hseq hv hl
  have h := genkeyWritesSearchedKeys s w .legacy hseq hv nofun
  rwa [findPublicExponent_of_le_two hl, findPrivateExponent_two_of_le_two hl] at h

/-- Settles O8: the first GENKEY ends in one of three ways, and keeps MOD_VALID and L, so that the second
ends in the same way, with the same values. -/
theorem genkeyIsIdempotent : Obligations.GenkeyIsIdempotent := by
  intro s w w' m b hseq hfirst
  have eq_of {b' : Block s.params.PW} (h : exec .genkey s = .next (s.setBlock b')) : b = b' :=
    (s.setBlock_inj b b').1 (Host.Outcome.next.inj (hfirst.symm.trans h))
  have hseq' : (s.setBlock { b with
      seq := .busy w' m
      done := false
      err := .noError }).block.seq = .busy w' m := rfl
  cases hv : s.block.modValid with
  | false =>
    obtain rfl := eq_of ((genkeyErrorsInOrder s w m hseq).1 hv)
    exact (genkeyErrorsInOrder _ _ m hseq').1 hv
  | true =>
    by_cases hdeg : m = .strict ∧ s.block.l.toNat ≤ 2
    · obtain ⟨hm, hl⟩ := hdeg
      obtain rfl := eq_of ((genkeyErrorsInOrder s w m hseq).2 hv hm hl)
      exact (genkeyErrorsInOrder _ _ m hseq').2 hv hm hl
    · have hl : m = .strict → 3 ≤ s.block.l.toNat := fun hm => by
        have := not_and.1 hdeg hm
        omega
      obtain rfl := eq_of (genkeyWritesSearchedKeys s w m hseq hv hl)
      exact genkeyWritesSearchedKeys _ _ m hseq' hv hl

/-! ### The keys of an instance -/

/-- Settles O52: P and Q determine L, and L determines the keys. -/
theorem samePrimesSameKeys : Obligations.SamePrimesSameKeys := by
  intro s t hs ht hsv hsk htv htk hp hq
  have hsi := hs.instance_built hsv
  have hti := ht.instance_built htv
  obtain ⟨hes, hds⟩ := hsi.keys hsk
  obtain ⟨het, hdt⟩ := hti.keys htk
  have hl : s.block.l.toNat = t.block.l.toNat := by rw [hsi.l_eq, hti.l_eq, hp, hq]
  have he : s.block.e.toNat = t.block.e.toNat := by rw [hes, het, hl]
  exact ⟨he, by rw [hds, hdt, he, hl]⟩

end Sys2Proof.Machine
end

section
/-! PROOFS. The modexp_engine and its commands: square-and-multiply gives the power modulo `m` (R84, R85), and
ENC and DEC end with the power that they write, or with the first error of their order (R87 to R91, R105). -/

namespace Sys2Proof.Machine

/-! ### The engine -/

/-- One round of square-and-multiply keeps the product modulo `m`: the lowest bit of `x` goes to the
accumulator, the others to the square. -/
theorem powMod_round (m b x acc : Nat) :
    (if x % 2 = 1 then acc * b % m else acc) * (b * b % m) ^ (x / 2) ≡ acc * b ^ x [MOD m] := by
  have hbit : (if x % 2 = 1 then acc * b % m else acc) ≡ acc * b ^ (x % 2) [MOD m] := by
    split_ifs with h
    · simpa [h] using Nat.mod_modEq (acc * b) m
    · simp [Nat.mod_two_ne_one.1 h, Nat.ModEq.refl]
  have hsquare := (Nat.mod_modEq (b * b) m).pow (x / 2)
  have hpow : b ^ (x % 2) * (b * b) ^ (x / 2) = b ^ x := by
    rw [← pow_two, ← pow_mul, ← pow_add, Nat.mod_add_div]
  rw [← hpow, ← mul_assoc]
  exact hbit.mul hsquare

/-- With fuel for every bit of `x`, square-and-multiply gives `acc * b ^ x` modulo `m`, also for `m = 0`
(R85). -/
theorem powMod_eq {m fuel b x acc : Nat} (hx : x < 2 ^ fuel) (hacc : acc % m = acc) :
    powMod m fuel b x acc = acc * b ^ x % m := by
  induction fuel generalizing b x acc with
  | zero =>
    obtain rfl : x = 0 := by omega
    simp [powMod, hacc]
  | succ fuel ih =>
    rw [powMod]
    split
    next h0 => simp [h0, hacc]
    next h0 =>
      have hacc' : (if x % 2 = 1 then acc * b % m else acc) % m =
          if x % 2 = 1 then acc * b % m else acc := by
        split_ifs
        · exact Nat.mod_mod _ _
        · exact hacc
      rw [ih (by omega) hacc']
      exact powMod_round m b x acc

/-- The engine gives the power modulo `m`; for `m = 0` it is the power itself (R84, log entry 8). -/
theorem modexp_eq (b x m : Nat) : modexp b x m = b ^ x % m := by
  rw [modexp, powMod_eq Nat.lt_log2_self (Nat.mod_mod 1 m)]
  exact ((Nat.mod_modEq 1 m).mul ((Nat.mod_modEq b m).pow x)).trans (by rw [one_mul])

/-- Settles O13: the engine gives the power modulo every `m`. -/
theorem engineGivesPowerModulo : Obligations.EngineGivesPowerModulo :=
  fun b x m _ => modexp_eq b x m

/-! ### The computations of ENC and DEC -/

/-- The scalar values in the form of `IsScalar` (R96). -/
theorem validScalar_iff (v : Nat) : validScalar v = true ↔ IsScalar v := by
  rw [← Bool.not_eq_false, not_validScalar_iff, not_not]

section Command

variable {PW : Nat} {m : Mode} {b : Block PW}

/-- Without an instance the first check of R87 fails. -/
theorem cipherChecks_of_no_instance (hv : b.modValid = false) :
    cipherChecks m b = some .notConstructed := if_pos hv

/-- In STRICT the second check of R87 fails on an instance without keys. -/
theorem cipherChecks_of_no_key (hv : b.modValid = true) (hm : m = .strict) (hk : b.keyValid = false) :
    cipherChecks m b = some .keyNotGenerated := by
  simp [cipherChecks, hv, hm, hk]

/-- On a block that is not ready one of the checks of R87 fails. -/
theorem cipherChecks_of_not_ready (h : ¬CipherReady m b) : ∃ c, cipherChecks m b = some c := by
  rcases cipherChecks_cases m b with ⟨-, hv, hk⟩ | ⟨hc, -⟩ | ⟨hc, -⟩
  · exact absurd ⟨hv, hk⟩ h
  · exact ⟨_, hc⟩
  · exact ⟨_, hc⟩

/-- ENC ends with the error of the checks of R87. -/
theorem encCommand_of_check {c : ErrCode} (h : cipherChecks m b = some c) :
    encCommand PW m b = .error c := by
  rw [encCommand, h]

/-- DEC ends with the error of the checks of R87. -/
theorem decCommand_of_check {c : ErrCode} (h : cipherChecks m b = some c) :
    decCommand PW m b = .error c := by
  rw [decCommand, h]

/-- ENC of a value that passes its checks writes the power (R88). -/
theorem encCommand_of_passes (h : EncPasses m b b.din.toNat) :
    encCommand PW m b = .ok (b.writeDout (b.din.toNat ^ b.e.toNat % b.n.toNat)) := by
  obtain ⟨hready, hscalar, hlt⟩ := h
  have hrange : ¬(m = .strict ∧ charToCodepoint b.din.toNat ≥ b.n.toNat) :=
    fun ⟨hm, hge⟩ => absurd (hlt hm) (Nat.not_lt.2 hge)
  simp only [encCommand, cipherChecks_of_ready hready, (validScalar_iff _).2 hscalar, if_neg hrange,
    modexp_eq]
  rfl

/-- ENC refuses a value that is no scalar value (R88). -/
theorem encCommand_of_not_scalar (hready : CipherReady m b) (h : ¬IsScalar b.din.toNat) :
    encCommand PW m b = .error .invalidChar := by
  simp only [encCommand, cipherChecks_of_ready hready, if_pos ((not_validScalar_iff _).2 h)]

/-- In STRICT ENC refuses a value from N on (R88). -/
theorem encCommand_of_overflow (hready : CipherReady m b) (hscalar : IsScalar b.din.toNat)
    (hm : m = .strict) (h : b.n.toNat ≤ b.din.toNat) :
    encCommand PW m b = .error .codepointOverflow := by
  have hrange : m = .strict ∧ charToCodepoint b.din.toNat ≥ b.n.toNat := ⟨hm, h⟩
  simp only [encCommand, cipherChecks_of_ready hready, (validScalar_iff _).2 hscalar, if_pos hrange]
  rfl

/-- DEC of a value that passes its checks writes the power (R89). -/
theorem decCommand_of_passes (h : DecPasses m b b.din.toNat) :
    decCommand PW m b = .ok (b.writeDout (b.din.toNat ^ b.d.toNat % b.n.toNat)) := by
  obtain ⟨hready, hscalar⟩ := h
  simp only [decCommand, cipherChecks_of_ready hready, modexp_eq, codepointToChar,
    if_pos ((validScalar_iff _).2 hscalar)]

/-- DEC refuses to write a power that is no scalar value (R89). -/
theorem decCommand_of_not_scalar (hready : CipherReady m b)
    (h : ¬IsScalar (b.din.toNat ^ b.d.toNat % b.n.toNat)) :
    decCommand PW m b = .error .invalidScalar := by
  simp only [decCommand, cipherChecks_of_ready hready, modexp_eq, codepointToChar,
    if_neg (mt (validScalar_iff _).1 h)]

/-- ENC of a value that does not pass its checks ends with an error (R87, R88). -/
theorem encCommand_of_not_passes (h : ¬EncPasses m b b.din.toNat) :
    ∃ c, encCommand PW m b = .error c := by
  by_cases hready : CipherReady m b
  · by_cases hscalar : IsScalar b.din.toNat
    · have hover : ¬(m = .strict → b.din.toNat < b.n.toNat) := fun hlt => h ⟨hready, hscalar, hlt⟩
      obtain ⟨hm, hge⟩ := Classical.not_imp.1 hover
      exact ⟨_, encCommand_of_overflow hready hscalar hm (Nat.not_lt.1 hge)⟩
    · exact ⟨_, encCommand_of_not_scalar hready hscalar⟩
  · obtain ⟨c, hc⟩ := cipherChecks_of_not_ready hready
    exact ⟨c, encCommand_of_check hc⟩

/-- DEC of a value that does not pass its checks ends with an error (R87, R89). -/
theorem decCommand_of_not_passes (h : ¬DecPasses m b b.din.toNat) :
    ∃ c, decCommand PW m b = .error c := by
  by_cases hready : CipherReady m b
  · exact ⟨_, decCommand_of_not_scalar hready fun hscalar => h ⟨hready, hscalar⟩⟩
  · obtain ⟨c, hc⟩ := cipherChecks_of_not_ready hready
    exact ⟨c, decCommand_of_check hc⟩

/-- No command's error is the code of success (R101). -/
theorem commandOf_error_ne_noError {i : Instr} {c : ErrCode} (h : commandOf i PW m b = .error c) :
    c ≠ .noError := by
  rintro rfl
  cases i with
  | build => rcases buildCommand_cases PW m b with hc | hc <;> cases hc.symm.trans h
  | genkey =>
    rcases genkeyCommand_cases PW m b with ⟨hc, -⟩ | ⟨hc, -⟩ | ⟨hc, -⟩ <;> cases hc.symm.trans h
  | enc =>
    rcases encCommand_cases PW m b with ⟨hc, -⟩ | ⟨c, hc, hcodes⟩
    · cases hc.symm.trans h
    · obtain rfl := Except.error.inj (hc.symm.trans h)
      simp at hcodes
  | dec =>
    rcases decCommand_cases PW m b with ⟨hc, -⟩ | ⟨c, hc, hcodes⟩
    · cases hc.symm.trans h
    · obtain rfl := Except.error.inj (hc.symm.trans h)
      simp at hcodes

end Command

/-! ### The completions -/

section Completion

variable {i : Instr} {s : State} {w : Word s.params.PW} {m : Mode}

/-- A command in flight that computes without error completes with its writes (R103). -/
theorem exec_of_ok {b : Block s.params.PW} (hseq : s.block.seq = .busy w m)
    (h : commandOf i s.params.PW m s.block = .ok b) : exec i s = .next (s.setBlock b.succeed) := by
  rw [exec_eq_complete, complete_busy hseq, h]
  rfl

/-- A command in flight that computes an error raises it (R103, R104). -/
theorem exec_of_error {c : ErrCode} (hseq : s.block.seq = .busy w m)
    (h : commandOf i s.params.PW m s.block = .error c) :
    exec i s = .next (s.setBlock (s.block.raise c)) := by
  rw [exec_eq_complete, complete_busy hseq, h]
  rfl

/-- A command that completes without error has made its writes. -/
theorem exec_noError_writes {t : State} (h : exec i s = .next t) (he : t.block.err = .noError) :
    ∃ m b, CommandWrites m s.block i b ∧ t = s.setBlock b.succeed := by
  rw [exec_eq_complete] at h
  obtain ⟨w, m, -, ⟨b, hc, rfl⟩ | ⟨c, hc, rfl⟩⟩ := complete_next h
  · exact ⟨m, b, commandWrites_of_ok hc, rfl⟩
  · exact absurd he (commandOf_error_ne_noError hc)

end Completion

/-- Settles O14: the checks pass, and the completion of the write of DOUT writes STATUS and the sequencer
only. -/
theorem encWritesCiphertext : Obligations.EncWritesCiphertext :=
  fun _ _ _ hseq hready hscalar hlt =>
    exec_of_ok (i := .enc) hseq (encCommand_of_passes ⟨hready, hscalar, hlt⟩)

/-- Settles O15: each check's error is raised when the ones before it pass. -/
theorem encErrorsInOrder : Obligations.EncErrorsInOrder := by
  intro s w m hseq
  refine ⟨fun hv => ?_, fun hv hm hk => ?_, fun hready h => ?_, fun hready hscalar hm h => ?_⟩
  · exact exec_of_error hseq (encCommand_of_check (cipherChecks_of_no_instance hv))
  · exact exec_of_error hseq (encCommand_of_check (cipherChecks_of_no_key hv hm hk))
  · exact exec_of_error hseq (encCommand_of_not_scalar hready h)
  · exact exec_of_error hseq (encCommand_of_overflow hready hscalar hm h)

/-- Settles O16: the checks pass, and the codec gives the scalar value back unchanged. -/
theorem decWritesCharacter : Obligations.DecWritesCharacter :=
  fun _ _ _ hseq hready hscalar =>
    exec_of_ok (i := .dec) hseq (decCommand_of_passes ⟨hready, hscalar⟩)

/-- Settles O17: each check's error is raised when the ones before it pass. -/
theorem decErrorsInOrder : Obligations.DecErrorsInOrder := by
  intro s w m hseq
  refine ⟨fun hv => ?_, fun hv hm hk => ?_, fun hready h => ?_⟩
  · exact exec_of_error hseq (decCommand_of_check (cipherChecks_of_no_instance hv))
  · exact exec_of_error hseq (decCommand_of_check (cipherChecks_of_no_key hv hm hk))
  · exact exec_of_error hseq (decCommand_of_not_scalar hready h)

/-! ### The range of DOUT -/

/-- On an instance every power modulo N is below N, so that a register holds it exactly (R6, R91). -/
theorem InstanceInv.mod_n {PW : Nat} {b : Block PW} (h : InstanceInv b) (x : Nat) :
    x % b.n.toNat < b.n.toNat ∧ (BitVec.ofNat (2 * PW) (x % b.n.toNat)).toNat = x % b.n.toNat := by
  have hlt := Nat.mod_lt x (Nat.zero_lt_of_lt h.n_ge)
  exact ⟨hlt, toNat_ofNat_width (hlt.trans b.n.isLt)⟩

/-- Settles O18: DOUT is a power modulo N, of an instance, and after DEC one that the codec accepted. -/
theorem cipherOutputInRange : Obligations.CipherOutputInRange := by
  intro i s t hi hinv h he
  obtain ⟨m, b, hwrites, rfl⟩ := exec_noError_writes h he
  cases hwrites with
  | build | genkey => simp at hi
  | enc built =>
    obtain ⟨hlt, hexact⟩ := (hinv.instance_built built).mod_n (s.block.din.toNat ^ s.block.e.toNat)
    exact ⟨by simpa [modexp_eq, hexact] using hlt, nofun⟩
  | dec built scalar =>
    obtain ⟨hlt, hexact⟩ := (hinv.instance_built built).mod_n (s.block.din.toNat ^ s.block.d.toNat)
    rw [validScalar_iff, modexp_eq] at scalar
    exact ⟨by simpa [modexp_eq, hexact] using hlt, fun _ => by simpa [modexp_eq, hexact] using scalar⟩

end Sys2Proof.Machine
end

section
/-! PROOFS. Decryption inverts encryption: modulo each of two distinct primes the two exponents cancel by
Fermat's little theorem, and so they do modulo the product (R93). -/

namespace Sys2Proof.Machine

/-! ### Powers modulo two primes -/

/-- Modulo a prime an exponent that is 1 modulo a multiple of `p - 1` changes nothing. -/
theorem pow_modEq_self_of_prime {p k l : Nat} (hp : p.Prime) (hl : p - 1 ∣ l) (hl1 : 1 < l)
    (hk : k % l = 1) (x : Nat) : x ^ k ≡ x [MOD p] := by
  have hk0 : k ≠ 0 := by
    rintro rfl
    simp at hk
  have hdvd : p - 1 ∣ k - 1 := hl.trans ((Nat.modEq_iff_dvd' (by omega)).1
    ((Nat.mod_eq_of_lt hl1).trans hk.symm))
  have hfermat := Int.ModEq.pow_eq_pow hp hdvd (by omega) one_pos (x : Int)
  rwa [pow_one, ← Nat.cast_pow, Int.natCast_modEq_iff] at hfermat

/-- Modulo the product of two distinct primes an exponent that is 1 modulo the lcm of `p - 1` and `q - 1`
changes nothing (R93). -/
theorem pow_modEq_self_of_primes {p q k : Nat} (hp : p.Prime) (hq : q.Prime) (hpq : p ≠ q)
    (hl : 2 ≤ Nat.lcm (p - 1) (q - 1)) (hk : k % Nat.lcm (p - 1) (q - 1) = 1) (x : Nat) :
    x ^ k ≡ x [MOD p * q] :=
  (Nat.modEq_and_modEq_iff_modEq_mul ((Nat.coprime_primes hp hq).2 hpq)).1
    ⟨pow_modEq_self_of_prime hp (Nat.dvd_lcm_left _ _) (by omega) hk x,
      pow_modEq_self_of_prime hq (Nat.dvd_lcm_right _ _) (by omega) hk x⟩

/-! ### The instance -/

/-- On a keyed instance of distinct primes with L ≥ 3 the power with D undoes the power with E (R93). -/
theorem State.Inv.pow_e_pow_d {s : State} (hinv : s.Inv) (hv : s.block.modValid = true)
    (hk : s.block.keyValid = true) (hp : s.block.p.toNat.Prime) (hq : s.block.q.toNat.Prime)
    (hpq : s.block.p.toNat ≠ s.block.q.toNat) (hl : 3 ≤ s.block.l.toNat) {x : Nat}
    (hx : x < s.block.n.toNat) :
    (x ^ s.block.e.toNat % s.block.n.toNat) ^ s.block.d.toNat % s.block.n.toNat = x := by
  have hinst := hinv.instance_built hv
  obtain ⟨-, -, -, -, -, hed, -⟩ := keyedInstanceIsValid s hinv hv hk hl
  rw [hinst.l_eq] at hl hed
  have hpow := pow_modEq_self_of_primes hp hq hpq (by omega) hed x
  rw [← hinst.n_eq, pow_mul] at hpow
  exact Eq.trans (((Nat.mod_modEq _ _).pow _).trans hpow) (Nat.mod_eq_of_lt hx)

/-- Settles O19: DIN passes the checks of ENC, its ciphertext those of DEC, and the second power is DIN. -/
theorem decryptionInvertsEncryption : Obligations.DecryptionInvertsEncryption := by
  intro s w w' m m' hinv hv hk hp hq hpq hl hscalar hlt
  have hback := hinv.pow_e_pow_d hv hk hp hq hpq hl hlt
  obtain ⟨-, hexact⟩ := (hinv.instance_built hv).mod_n (s.block.din.toNat ^ s.block.e.toNat)
  rw [← hexact] at hback
  refine ⟨BitVec.ofNat _ (s.block.din.toNat ^ s.block.e.toNat % s.block.n.toNat),
    encWritesCiphertext _ w m rfl ⟨hv, fun _ => hk⟩ hscalar fun _ => hlt, ?_⟩
  generalize BitVec.ofNat _ (s.block.din.toNat ^ s.block.e.toNat % s.block.n.toNat) = c at hback ⊢
  have hdec := decWritesCharacter (s.setBlock { s.block with
    din := c, dout := c, seq := .busy w' m' }) w' m' rfl ⟨hv, fun _ => hk⟩
  rw [hback, BitVec.ofNat_toNat, BitVec.setWidth_eq] at hdec
  exact hdec hscalar

end Sys2Proof.Machine
end

section
/-! PROOFS. The sequence operations under every schedule without a reset (R54, R92): each element comes to the
completion of its command, the host's reads of it give the outcome of this command, and no element changes what
the outcomes of the others depend on. -/

namespace Sys2Proof.Machine

/-! ### The outcome of an element -/

/-- The block at which the command of an element `v` is in flight (R54). -/
def Block.elementIssued {PW : Nat} (b : Block PW) (i : Instr) (v : Value) : Block PW :=
  Block.issue { b with din := BitVec.ofNat (2 * PW) v.toNat } (encode PW i)

/-- The block that the completion of an element's command leaves. -/
def Block.elementCompleted {PW : Nat} (b : Block PW) (i : Instr) (v : Value) : Block PW :=
  (b.elementIssued i v).completed (encode PW i) b.mode

/-- What the command of an element computes: the value for DOUT, or nothing when it ends with an error. -/
def elementOutcome {PW : Nat} (i : Instr) (b : Block PW) (v : Value) : Option Nat :=
  ((commandOf i PW b.mode (b.elementIssued i v)).map Block.dout).toOption.map BitVec.toNat

/-- An element's completion is that of its command (R103). -/
theorem elementCompleted_eq_finish (c : Config.Params) (b : Block c.PW) (i : Instr) (v : Value) :
    b.elementCompleted i v =
      (b.elementIssued i v).finish (commandOf i c.PW b.mode (b.elementIssued i v)) := by
  rw [Block.elementCompleted, Block.completed, decode_encode]

/-- An element's completion leaves the block in IDLE. -/
theorem elementCompleted_seq {PW : Nat} (b : Block PW) (i : Instr) (v : Value) :
    (b.elementCompleted i v).seq = .idle :=
  Block.busy_eq_false.1 (Block.completed_idle_done _ _ _).1

/-- Only the code of no error is 0 (R101). -/
theorem ErrCode.code_eq_zero_iff {c : ErrCode} : c.code = 0 ↔ c = .noError := by
  cases c <;> decide

/-- STATUS and DOUT, read after an element's completion, tell the outcome of its command (R54). -/
theorem elementOutcome_of_reads (c : Config.Params) (b : Block c.PW) (i : Instr) (v : Value) :
    (if statusErr ((b.elementCompleted i v).hostRead (slotOf .status)) = 0
      then some ((b.elementCompleted i v).hostRead (slotOf .dout)).toNat else none) =
      elementOutcome i b v := by
  rw [statusRead_err c.legal, hostRead_slotOf, elementCompleted_eq_finish, elementOutcome]
  cases h : commandOf i c.PW b.mode (b.elementIssued i v) with
  | ok b' => rfl
  | error e => exact if_neg (mt ErrCode.code_eq_zero_iff.1 (commandOf_error_ne_noError h))

/-- The registers that ENC and DEC read beside DIN, with the mode that an issue latches. -/
def Block.cipherRegs {PW : Nat} (b : Block PW) : Mode × Bool × Bool × Word PW × Word PW × Word PW :=
  (b.mode, b.modValid, b.keyValid, b.n, b.e, b.d)

/-- The checks of R87 read MOD_VALID and KEY_VALID only. -/
theorem cipherChecks_congr {PW : Nat} {m : Mode} {b b' : Block PW} (hv : b'.modValid = b.modValid)
    (hk : b'.keyValid = b.keyValid) : cipherChecks m b' = cipherChecks m b := by
  rw [cipherChecks, cipherChecks, hv, hk]

/-- The DOUT that an ENC or DEC computes, or its error, depends on these registers and DIN only. -/
theorem commandOf_dout_congr {PW : Nat} {i : Instr} (hi : i = .enc ∨ i = .dec) (m : Mode)
    {b b' : Block PW} (h : b'.cipherRegs = b.cipherRegs) (hdin : b'.din = b.din) :
    (commandOf i PW m b').map Block.dout = (commandOf i PW m b).map Block.dout := by
  simp only [Block.cipherRegs, Prod.mk.injEq] at h
  obtain ⟨-, hv, hk, hn, he, hd⟩ := h
  rcases hi with rfl | rfl
  · rw [commandOf, encCommand, encCommand, cipherChecks_congr hv hk, hdin, hn, he]
    cases cipherChecks m b with
    | some c => rfl
    | none =>
      dsimp only
      split_ifs <;> rfl
  · rw [commandOf, decCommand, decCommand, cipherChecks_congr hv hk, hdin, hn, hd]
    cases cipherChecks m b with
    | some c => rfl
    | none => cases codepointToChar (modexp b.din.toNat b.d.toNat b.n.toNat) <;> rfl

/-- The outcome of an element of ENC or DEC depends on these registers only. -/
theorem elementOutcome_congr {PW : Nat} {i : Instr} (hi : i = .enc ∨ i = .dec) {b b' : Block PW}
    (h : b'.cipherRegs = b.cipherRegs) (v : Value) :
    elementOutcome i b' v = elementOutcome i b v := by
  have hm : b'.mode = b.mode := congrArg Prod.fst h
  have hissued : (b'.elementIssued i v).cipherRegs = (b.elementIssued i v).cipherRegs := h
  rw [elementOutcome, hm, commandOf_dout_congr hi b.mode hissued rfl, elementOutcome]

/-- What a command in flight leaves is its completion. -/
theorem finish_completion {PW : Nat} (i : Instr) (m : Mode) (b : Block PW) :
    Completion m b i (b.finish (commandOf i PW m b)) := by
  cases h : commandOf i PW m b with
  | ok b' => exact .succeeds (commandWrites_of_ok h)
  | error c => exact .fails c

/-- No element of a sequence changes these registers (R21, R22, R26). -/
theorem elementCompleted_cipherRegs (c : Config.Params) {i : Instr} (hi : i = .enc ∨ i = .dec)
    (b : Block c.PW) (v : Value) : (b.elementCompleted i v).cipherRegs = b.cipherRegs := by
  have hb : i ≠ .build := by rintro rfl; simp at hi
  have hg : i ≠ .genkey := by rintro rfl; simp at hi
  have hc := finish_completion i b.mode (b.elementIssued i v)
  rw [← elementCompleted_eq_finish] at hc
  obtain ⟨hm, -⟩ := hc.keeps_operands
  obtain ⟨-, -, hn, -, hv⟩ := hc.keeps_instance hb
  obtain ⟨he, hd, hk⟩ := hc.keeps_keys hb hg
  simp only [Block.cipherRegs, hm, hn, hv, he, hd, hk]
  rfl

/-! ### The outcomes of ENC and DEC -/

section Outcome

variable (c : Config.Params) {b : Block c.PW} {v : Value}

/-- A value that fits a register is the DIN of its element's command (R6). -/
theorem elementIssued_din (i : Instr) (hv : v.toNat < 2 ^ (2 * c.PW)) :
    (b.elementIssued i v).din.toNat = v.toNat := toNat_ofNat_width hv

/-- A value that passes the checks of ENC has its ciphertext as outcome (R88). -/
theorem elementOutcome_enc_of_passes (hinv : b.Inv) (h : EncPasses b.mode b v.toNat) :
    elementOutcome .enc b v = some (v.toNat ^ b.e.toNat % b.n.toNat) := by
  obtain ⟨⟨hbuilt, -⟩, hscalar, -⟩ := id h
  have hle : v.toNat ≤ 0x10FFFF := hscalar.elim (fun h => by omega) And.right
  have hdin := elementIssued_din c (b := b) .enc (lt_width c (show v.toNat < 2 ^ 32 by omega))
  have hpasses : EncPasses b.mode (b.elementIssued .enc v) (b.elementIssued .enc v).din.toNat :=
    hdin ▸ h
  rw [elementOutcome, commandOf, encCommand_of_passes hpasses, hdin]
  exact congrArg some ((hinv.instance_built hbuilt).mod_n _).2

/-- A value that passes the checks of DEC has its plaintext as outcome (R89). -/
theorem elementOutcome_dec_of_passes (hinv : b.Inv) (hv : v.toNat < 2 ^ (2 * c.PW))
    (h : DecPasses b.mode b v.toNat) :
    elementOutcome .dec b v = some (v.toNat ^ b.d.toNat % b.n.toNat) := by
  obtain ⟨⟨hbuilt, -⟩, -⟩ := id h
  have hdin := elementIssued_din c (b := b) .dec hv
  have hpasses : DecPasses b.mode (b.elementIssued .dec v) (b.elementIssued .dec v).din.toNat :=
    hdin ▸ h
  rw [elementOutcome, commandOf, decCommand_of_passes hpasses, hdin]
  exact congrArg some ((hinv.instance_built hbuilt).mod_n _).2

/-- A value that does not pass the checks of ENC has no outcome (R88). -/
theorem elementOutcome_enc_of_not_passes (hv : v.toNat < 2 ^ (2 * c.PW))
    (h : ¬EncPasses b.mode b v.toNat) : elementOutcome .enc b v = none := by
  have hfails : ¬EncPasses b.mode (b.elementIssued .enc v) (b.elementIssued .enc v).din.toNat :=
    elementIssued_din c (b := b) .enc hv ▸ h
  obtain ⟨_, hc⟩ := encCommand_of_not_passes hfails
  rw [elementOutcome, commandOf, hc]
  rfl

/-- A value that does not pass the checks of DEC has no outcome (R89). -/
theorem elementOutcome_dec_of_not_passes (hv : v.toNat < 2 ^ (2 * c.PW))
    (h : ¬DecPasses b.mode b v.toNat) : elementOutcome .dec b v = none := by
  have hfails : ¬DecPasses b.mode (b.elementIssued .dec v) (b.elementIssued .dec v).din.toNat :=
    elementIssued_din c (b := b) .dec hv ▸ h
  obtain ⟨_, hc⟩ := decCommand_of_not_passes hfails
  rw [elementOutcome, commandOf, hc]
  rfl

end Outcome

/-! ### The reads of an element -/

/-- The reads of an element, oldest first: those of its `wait`, then STATUS and DOUT (R54). -/
def elementReads {PW : Nat} (n : Nat) (inFlight completed : Block PW) : List (Addr × Word PW) :=
  waitReads n inFlight completed ++
    [(slotOf .status, completed.hostRead (slotOf .status)),
      (slotOf .dout, completed.hostRead (slotOf .dout))]

/-- A `wait` reads STATUS only. -/
theorem slot_of_mem_waitReads {PW n : Nat} {b b' : Block PW} {r : Addr × Word PW}
    (h : r ∈ waitReads n b b') : r.1 = slotOf .status := by
  rw [waitReads, List.mem_append, List.mem_singleton] at h
  rcases h with h | rfl
  · rw [(List.mem_replicate.1 h).2]
  · rfl

/-- Reads of STATUS before the one that an element's DOUT follows give no element. -/
theorem elementResults_status_append {PW : Nat} {waits : List (Addr × Word PW)}
    (h : ∀ r ∈ waits, r.1 = slotOf .status) (st v : Word PW) (rs : List (Addr × Word PW)) :
    elementResults (waits ++ (slotOf .status, st) :: (slotOf .dout, v) :: rs) =
      (if statusErr st = 0 then some v.toNat else none) :: elementResults rs := by
  have status_ne_dout : slotOf .status ≠ slotOf .dout := by decide
  induction waits with
  | nil => exact elementResults_element st v rs
  | cons r waits ih =>
    rw [← ih fun r' hr' => h r' (List.mem_cons_of_mem r hr')]
    cases waits with
    | nil => exact elementResults_of_ne_dout status_ne_dout r _
    | cons r' waits =>
      have hr' : r'.1 = slotOf .status := h r' (by simp)
      exact elementResults_of_ne_dout (hr' ▸ status_ne_dout) r _

/-- The reads of an element give the outcome of its command, before the results of the later reads. -/
theorem elementResults_elementReads (c : Config.Params) (n : Nat) (b : Block c.PW) (i : Instr) (v : Value)
    (rs : List (Addr × Word c.PW)) :
    elementResults (elementReads n (b.elementIssued i v) (b.elementCompleted i v) ++ rs) =
      elementOutcome i b v :: elementResults rs := by
  rw [← elementOutcome_of_reads, elementReads, List.append_assoc]
  exact elementResults_status_append (fun _ => slot_of_mem_waitReads) _ _ rs

/-! ### The run of a sequence -/

/-- `t` is where the host goes on with `ops` after the reads `reads`, oldest first, at the block `b`: only
the schedule left is open. -/
def StandsAt (s : State) (ops : List (HostOp s.params.PW)) (b : Block s.params.PW)
    (reads : List (Addr × Word s.params.PW)) (t : State) : Prop :=
  ∃ ts, t = { s with schedule := ts, program := ops, block := b, readLog := reads.reverse ++ s.readLog }

/-- In IDLE a host read logs the value and changes nothing else (R34). -/
theorem leadsTo_read {s : State} {a : Addr} {ops : List (HostOp s.params.PW)}
    (hidle : s.block.seq = .idle) (hp : s.program = .access (.read a) :: ops) :
    LeadsTo s (StandsAt s ops s.block [(a, s.block.hostRead a)]) := by
  have hturn : hostTurn s =
      { s with program := ops, readLog := (a, s.block.hostRead a) :: s.readLog } := by
    simp [hostTurn, hp, hostAccess]
  refine (leadsTo_hostTurn hidle).trans ?_
  rintro _ ⟨ts, rfl⟩
  exact .refl ⟨ts, by rw [hturn]; rfl⟩

/-- In IDLE a write to DIN stores the word (R35). -/
theorem hostWrite_din_of_idle {PW : Nat} {b : Block PW} (h : b.seq = .idle) (v : Word PW) :
    b.hostWrite (slotOf .din) v = { b with din := v } :=
  Block.unlessBusy_of_idle h _

/-- An element of a sequence comes to the completion of its command, with its reads (R54). -/
theorem leadsTo_element {s : State} {i : Instr} {v : Value} {ops : List (HostOp s.params.PW)}
    (hidle : s.block.seq = .idle) (hp : s.program = opsElement s.params.PW i v ++ ops) :
    LeadsTo s fun t => ∃ n, StandsAt s ops (s.block.elementCompleted i v)
      (elementReads n (s.block.elementIssued i v) (s.block.elementCompleted i v)) t := by
  have hdone := elementCompleted_seq s.block i v
  refine .trans (leadsTo_write hidle hp (hostWrite_din_of_idle hidle _)) ?_
  rintro _ ⟨ts, rfl⟩
  refine .trans (leadsTo_issue_wait hidle rfl) ?_
  rintro _ ⟨n, ts, rfl⟩
  refine .trans (leadsTo_read hdone rfl) ?_
  rintro _ ⟨ts, rfl⟩
  refine .trans (leadsTo_read hdone rfl) ?_
  rintro _ ⟨ts, rfl⟩
  exact .refl ⟨n, ts, by simp [elementReads, Block.elementCompleted, Block.elementIssued]⟩

/-- A sequence of ENCs or DECs comes to IDLE, and the results of its reads are the outcomes of its elements
at the block from which it started (R54, R92). -/
theorem leadsTo_elements {s : State} {i : Instr} (hi : i = .enc ∨ i = .dec) {vs : List Value}
    {ops : List (HostOp s.params.PW)} (hidle : s.block.seq = .idle)
    (hp : s.program = vs.flatMap (opsElement s.params.PW i) ++ ops) :
    LeadsTo s fun t => ∃ b reads, b.seq = .idle ∧
      elementResults reads = vs.map (elementOutcome i s.block) ∧ StandsAt s ops b reads t := by
  induction vs generalizing s with
  | nil =>
    obtain rfl : s.program = ops := hp
    exact .refl ⟨s.block, [], hidle, rfl, s.schedule, rfl⟩
  | cons v vs ih =>
    rw [List.flatMap_cons, List.append_assoc] at hp
    refine .trans (leadsTo_element hidle hp) ?_
    rintro _ ⟨n, ts, rfl⟩
    refine .trans (ih (elementCompleted_seq s.block i v) rfl) ?_
    rintro _ ⟨b, reads, hdone, hresults, ts', rfl⟩
    have hsame : elementOutcome i (s.block.elementCompleted i v) = elementOutcome i s.block :=
      funext (elementOutcome_congr hi (elementCompleted_cipherRegs s.params hi s.block v))
    refine .refl ⟨b, elementReads n (s.block.elementIssued i v) (s.block.elementCompleted i v) ++ reads,
      hdone, ?_, ts', by simp⟩
    rw [elementResults_elementReads, hresults, hsame, List.map_cons]

/-! ### The result of a sequence -/

/-- When every element has a value, the result is the list of the values (R92). -/
theorem sequenceResult_map_some (f : Value → Nat) (vs : List Value) :
    sequenceResult (vs.map fun v => some (f v)) = .ok (vs.map f) := by
  induction vs with
  | nil => rfl
  | cons v vs ih => rw [List.map_cons, sequenceResult_some, ih, List.map_cons]

/-- The first element without a value is the place of the failure, whatever follows it (R92). -/
theorem sequenceResult_map_some_none (f : Value → Nat) (vs : List Value) (rs : List (Option Nat)) :
    sequenceResult ((vs.map fun v => some (f v)) ++ none :: rs) = .error vs.length := by
  induction vs with
  | nil => rfl
  | cons v vs ih => rw [List.map_cons, List.cons_append, sequenceResult_some, ih, List.length_cons]

section Sequence

variable {s : State} {i : Instr} {ops : List (HostOp s.params.PW)} {f : Value → Nat}

/-- A sequence operation completes, and its reads give the outcomes of its elements. -/
theorem performs_sequence (hi : i = .enc ∨ i = .dec) {vs : List Value} (hidle : s.block.seq = .idle)
    (hr : .reset ∉ s.schedule) (hp : s.program = vs.flatMap (opsElement s.params.PW i) ++ ops) :
    ∃ b reads, Performs s ops b reads ∧ b.busy = false ∧
      elementResults reads = vs.map (elementOutcome i s.block) := by
  obtain ⟨k, _, hrun, -, b, reads, hdone, hresults, ts, rfl⟩ := leadsTo_elements hi hidle hp hr
  exact ⟨b, reads, ⟨k, ts, hrun⟩, Block.busy_eq_false.2 hdone, hresults⟩

/-- A sequence whose elements all have a value ends with the list of the values. -/
theorem performs_sequence_ok (hi : i = .enc ∨ i = .dec) {vs : List Value} (hidle : s.block.seq = .idle)
    (hr : .reset ∉ s.schedule) (hp : s.program = vs.flatMap (opsElement s.params.PW i) ++ ops)
    (h : ∀ v ∈ vs, elementOutcome i s.block v = some (f v)) :
    ∃ b reads, Performs s ops b reads ∧ b.busy = false ∧
      sequenceResult (elementResults reads) = .ok (vs.map f) := by
  obtain ⟨b, reads, hperforms, hdone, hresults⟩ := performs_sequence hi hidle hr hp
  refine ⟨b, reads, hperforms, hdone, ?_⟩
  rw [hresults, List.map_congr_left h, sequenceResult_map_some]

/-- A sequence with a first element that has no value fails there. -/
theorem performs_sequence_error (hi : i = .enc ∨ i = .dec) {good others : List Value} {bad : Value}
    (hidle : s.block.seq = .idle) (hr : .reset ∉ s.schedule)
    (hp : s.program = (good ++ bad :: others).flatMap (opsElement s.params.PW i) ++ ops)
    (h : ∀ v ∈ good, elementOutcome i s.block v = some (f v))
    (hbad : elementOutcome i s.block bad = none) :
    ∃ b reads, Performs s ops b reads ∧ b.busy = false ∧
      sequenceResult (elementResults reads) = .error good.length := by
  obtain ⟨b, reads, hperforms, hdone, hresults⟩ := performs_sequence hi hidle hr hp
  refine ⟨b, reads, hperforms, hdone, ?_⟩
  rw [hresults, List.map_append, List.map_congr_left h, List.map_cons, hbad,
    sequenceResult_map_some_none]

end Sequence

/-! ### `encrypt` and `decrypt` -/

/-- Each value of a well-formed `encrypt` or `decrypt` fits a register (R53). -/
theorem lt_width_of_mem {PW : Nat} {vs : List Value} {v : Value}
    (h : (vs.all fun v => v.wellFormed PW) = true) (hv : v ∈ vs) : v.toNat < 2 ^ (2 * PW) :=
  of_decide_eq_true (List.all_eq_true.1 h v hv)

/-- Settles O55: each element's outcome is its ciphertext. -/
theorem encryptSequenceKeepsOrder : Obligations.EncryptSequenceKeepsOrder := by
  intro s cs ops hinv hidle hr hp hpasses
  exact performs_sequence_ok (.inl rfl) hidle hr hp fun c hc =>
    elementOutcome_enc_of_passes s.params hinv (hpasses c hc)

/-- Settles O57: each element's outcome is its plaintext. -/
theorem decryptSequenceKeepsOrder : Obligations.DecryptSequenceKeepsOrder := by
  intro s vs ops hinv hidle hr hp hwf hpasses
  exact performs_sequence_ok (.inr rfl) hidle hr hp fun v hv =>
    elementOutcome_dec_of_passes s.params hinv (lt_width_of_mem hwf hv) (hpasses v hv)

/-- Settles O58: the elements before the failing one have values, and this one has none. -/
theorem sequenceFailsAtElement : Obligations.SequenceFailsAtElement := by
  intro s good others bad ops hinv hidle hr hwf
  have hfits {v : Value} (hv : v ∈ good ++ bad :: others) : v.toNat < 2 ^ (2 * s.params.PW) :=
    lt_width_of_mem hwf hv
  have hbad := hfits (List.mem_append_right good List.mem_cons_self)
  constructor
  · intro hp hpasses hfails
    exact performs_sequence_error (.inl rfl) hidle hr hp
      (fun c hc => elementOutcome_enc_of_passes s.params hinv (hpasses c hc))
      (elementOutcome_enc_of_not_passes s.params hbad hfails)
  · intro hp hpasses hfails
    exact performs_sequence_error (.inr rfl) hidle hr hp
      (fun v hv => elementOutcome_dec_of_passes s.params hinv
        (hfits (List.mem_append_left _ hv)) (hpasses v hv))
      (elementOutcome_dec_of_not_passes s.params hbad hfails)

end Sys2Proof.Machine
end

section
/-! PROOFS. The character codec (R96 to R98): which values are scalar values, and what the codec makes of each. -/

namespace Sys2Proof.Machine

/-- The scalar values as all values up to 0x10FFFF but the surrogates (R96). -/
theorem isScalar_iff_le_and_not_surrogate (v : Nat) :
    IsScalar v ↔ v ≤ 0x10FFFF ∧ ¬(0xD800 ≤ v ∧ v ≤ 0xDFFF) := by
  unfold IsScalar
  omega

/-- Settles O20: the check accepts the scalar values, and its two ranges leave out the surrogates. -/
theorem validScalarRange : Obligations.ValidScalarRange :=
  fun v => ⟨(validScalar_iff v).trans (isScalar_iff_le_and_not_surrogate v), validScalar_iff v⟩

/-- A scalar value is its own character (R98). -/
theorem codepointToChar_of_isScalar {v : Nat} (h : IsScalar v) : codepointToChar v = some v :=
  if_pos ((validScalar_iff v).2 h)

/-- No other value has a character (R98). -/
theorem codepointToChar_of_not_isScalar {v : Nat} (h : ¬IsScalar v) : codepointToChar v = none :=
  if_neg (mt (validScalar_iff v).1 h)

/-- Settles O21: `codepointToChar` is decided by the check, and `charToCodepoint` is the identity. -/
theorem codecMapsScalarsToThemselves : Obligations.CodecMapsScalarsToThemselves :=
  fun _ => ⟨fun h => ⟨codepointToChar_of_isScalar h, rfl⟩, codepointToChar_of_not_isScalar⟩

end Sys2Proof.Machine
end

section
/-! PROOFS. Errors and completion (R101 to R108): which error codes a command can end with and in which
mode, what a failed completion writes, when a completion exists, how OVR is cleared, and how an idle block
waits. -/

namespace Sys2Proof.Machine

/-! ### Error codes -/

/-- The error codes that a command with latched mode `m` can end with: the rows of R101 with their
commands and modes. -/
inductive CommandFails (m : Mode) : Instr → ErrCode → Prop where
  | modulus : CommandFails m .build .invalidModulusInput
  | noInstance {i : Instr} (needed : i ≠ .build) : CommandFails m i .notConstructed
  | totient (strict : m = .strict) : CommandFails m .genkey .degenerateTotient
  | noKey {i : Instr} (strict : m = .strict) (cipher : i = .enc ∨ i = .dec) :
    CommandFails m i .keyNotGenerated
  | char : CommandFails m .enc .invalidChar
  | overflow (strict : m = .strict) : CommandFails m .enc .codepointOverflow
  | scalar : CommandFails m .dec .invalidScalar

/-- A command's computation ends with no other error (R101, R105). -/
theorem commandFails_of_error {PW : Nat} {m : Mode} {b : Block PW} {i : Instr} {c : ErrCode}
    (h : commandOf i PW m b = .error c) : CommandFails m i c := by
  cases i with
  | build =>
    rcases buildCommand_cases PW m b with hc | hc
    · cases hc.symm.trans h
    · obtain rfl := Except.error.inj (hc.symm.trans h)
      exact .modulus
  | genkey =>
    rcases genkeyCommand_cases PW m b with ⟨hc, -⟩ | ⟨hc, -⟩ | ⟨hc, -, hm, -⟩
    · cases hc.symm.trans h
    · obtain rfl := Except.error.inj (hc.symm.trans h)
      exact .noInstance (by decide)
    · obtain rfl := Except.error.inj (hc.symm.trans h)
      exact .totient hm
  | enc =>
    rcases encCommand_cases PW m b with ⟨hc, -⟩ | ⟨c', hc, hcodes⟩
    · cases hc.symm.trans h
    · obtain rfl := Except.error.inj (hc.symm.trans h)
      rcases hcodes with rfl | ⟨rfl, hm⟩ | rfl | ⟨rfl, hm⟩
      · exact .noInstance (by decide)
      · exact .noKey hm (.inl rfl)
      · exact .char
      · exact .overflow hm
  | dec =>
    rcases decCommand_cases PW m b with ⟨hc, -⟩ | ⟨c', hc, hcodes⟩
    · cases hc.symm.trans h
    · obtain rfl := Except.error.inj (hc.symm.trans h)
      rcases hcodes with rfl | ⟨rfl, hm⟩ | rfl
      · exact .noInstance (by decide)
      · exact .noKey hm (.inr rfl)
      · exact .scalar

/-! ### Completions -/

/-- A completion ends without error, or raises one of the command's errors for the latched mode. -/
theorem exec_noError_or_raises {i : Instr} {s t : State} (h : exec i s = .next t) :
    t.block.err = .noError ∨
      ∃ w m c, s.block.seq = .busy w m ∧ CommandFails m i c ∧ t = s.setBlock (s.block.raise c) := by
  rw [exec_eq_complete] at h
  obtain ⟨w, m, hseq, ⟨b, -, rfl⟩ | ⟨c, hc, rfl⟩⟩ := complete_next h
  · exact .inl rfl
  · exact .inr ⟨w, m, c, hseq, commandFails_of_error hc, rfl⟩

/-- Settles O23: a completion with an error is the error raised, and this writes STATUS and the sequencer
only. -/
theorem failedCommandWritesOnlyStatus : Obligations.FailedCommandWritesOnlyStatus := by
  intro i s t h herr
  rcases exec_noError_or_raises h with hok | ⟨w, m, c, -, -, rfl⟩
  · exact absurd hok herr
  · exact ⟨c, rfl⟩

/-- Settles O24: a command in flight has a completion, and in IDLE there is none. -/
theorem completionEnabledExactlyWhenBusy : Obligations.CompletionEnabledExactlyWhenBusy := by
  intro i s
  constructor
  · intro hbusy
    obtain ⟨w, m, hseq⟩ := Block.busy_eq_true.1 hbusy
    obtain ⟨b, hexec, hidle, hdone⟩ := exec_busy hseq i
    exact ⟨_, hexec, Block.busy_eq_false.2 hidle, hdone⟩
  · intro hbusy
    rw [exec_eq_complete, complete_idle (Block.busy_eq_false.1 hbusy)]

/-- A command ends without error, or with one of its codes for some mode. -/
theorem exec_err_cases {i : Instr} {s t : State} (h : exec i s = .next t) :
    t.block.err = .noError ∨ ∃ m, CommandFails m i t.block.err := by
  rcases exec_noError_or_raises h with hok | ⟨w, m, c, -, hfails, rfl⟩
  · exact .inl hok
  · exact .inr ⟨m, hfails⟩

/-- Settles O25: of the rows of R101, those of each command. -/
theorem commandsRaiseOnlyTheirErrors : Obligations.CommandsRaiseOnlyTheirErrors := by
  intro s t
  refine ⟨fun h => ?_, fun h => ?_, fun h => ?_, fun h => ?_⟩
  all_goals
    refine (exec_err_cases h).imp_right fun ⟨m, hfails⟩ => ?_
    generalize t.block.err = c at hfails
    cases hfails <;> simp_all

/-- The codes that depend on the mode are raised in STRICT only (R108). -/
theorem CommandFails.of_legacy {i : Instr} {c : ErrCode} (h : CommandFails .legacy i c) :
    c ≠ .keyNotGenerated ∧ c ≠ .degenerateTotient ∧ c ≠ .codepointOverflow := by
  cases h with
  | modulus | noInstance | char | scalar => decide
  | totient strict | noKey strict | overflow strict => cases strict

/-- Settles O26: an error raised is one of the latched mode's. -/
theorem legacySilencesModeErrors : Obligations.LegacySilencesModeErrors := by
  intro i s t w hseq h
  rcases exec_noError_or_raises h with hok | ⟨w', m, c, hseq', hfails, rfl⟩
  · rw [hok]
    decide
  · obtain ⟨rfl, rfl⟩ := Seq.busy.inj (hseq.symm.trans hseq')
    exact hfails.of_legacy

/-! ### OVR -/

/-- A write to any slot but STATUS leaves a set OVR set (R37). -/
theorem WriteEffect.keeps_ovr_set {PW : Nat} {b b' : Block PW} {v : Word PW} {a : Addr}
    (h : WriteEffect b v a b') (ha : a ≠ slotOf .status) (hovr : b.ovr = true) : b'.ovr = true := by
  cases h with
  | dropped => rfl
  | status => exact absurd rfl ha
  | ctrl | cmd | pIn | qIn | din | ignored => exact hovr

/-- A write to STATUS of a word with bit 4 clear changes nothing (R18). -/
theorem hostWrite_status_of_bit_four_clear {PW : Nat} (b : Block PW) {v : Word PW}
    (h : v.toNat / 16 % 2 = 0) : b.hostWrite (slotOf .status) v = b := by
  have hwrite : b.hostWrite (slotOf .status) v = b.clearOvrIf (v.getLsbD 4) := rfl
  rw [hwrite, Block.clearOvrIf_getLsbD_four, if_neg (by omega)]

/-- Settles O36: a write to STATUS with bit 4 clear changes nothing, and of all else that a step makes of
the block only a reset clears OVR. -/
theorem ovrIsSticky : Obligations.OvrIsSticky := by
  intro s t h hovr hreset hclear
  by_cases hwrite : WriteNext s (slotOf .status)
  · obtain ⟨v, ops, hn⟩ := hwrite
    obtain rfl := Host.Outcome.next.inj ((step_write hn).symm.trans h)
    exact (congrArg Block.ovr (hostWrite_status_of_bit_four_clear _ (hclear v ops hn))).trans hovr
  · obtain ⟨b, _, _, _, hb, rfl⟩ := step_stepsTo h
    cases hb with
    | unchanged | rejects => exact hovr
    | writes next effect => exact effect.keeps_ovr_set (by rintro rfl; exact hwrite next) hovr
    | resets next => exact absurd next hreset
    | completes _ completion =>
      obtain ⟨-, hkeep, -⟩ := completion.keeps_operands
      exact hkeep.trans hovr

/-! ### Turns -/

/-- Settles O30: it is the step in which the sequencer completes a command. -/
theorem stepRunsDecodedCommand : Obligations.StepRunsDecodedCommand :=
  fun _ _ _ _ hseq hd _ hn => step_completion hn hseq hd

/-- A host turn with no program left changes nothing (R119). -/
theorem hostTurn_of_program_nil {s : State} (h : s.program = []) : hostTurn s = s := by
  simp [hostTurn, h]

/-- Settles O32: neither a turn of an idle sequencer nor one of a host whose program is over changes
anything. -/
theorem idleBlockWaits : Obligations.IdleBlockWaits := by
  intro s hidle hturn
  rcases hturn with hn | ⟨hn, hp⟩
  · exact (step_sequencer hn).trans (sequencerTurn_idle hidle)
  · rw [step_host hn, hostTurn_of_program_nil (s := s.setSchedule s.schedule.tail) hp]

end Sys2Proof.Machine
end

section
/-! PROOFS. A reset, and the completion of every command in flight under every schedule without a reset
(R29, R118, R126). -/

namespace Sys2Proof.Machine

/-- Settles O41: the block that a reset leaves reads 0 in every slot. -/
theorem resetClearsBlock : Obligations.ResetClearsBlock :=
  fun s hn => ⟨Block.reset s.params.PW, step_reset hn, rfl, rfl, hostRead_reset _⟩

/-- In the sequencer's turn a command in flight completes in one step (R103). -/
theorem completes_in_one_step {s : State} (hn : s.nextTurn = .sequencer) (hb : s.block.busy = true) :
    ∃ (k : Nat) (t : State), k ≤ s.schedule.length + 1 ∧
      Host.Core.run Sys2Proof.core k s = .next t ∧ t.block.busy = false ∧ t.block.done = true := by
  obtain ⟨b, hidle, hdone, hstep⟩ := step_completed hn hb
  exact ⟨1, _, Nat.le_add_left _ _, run_one hstep, hidle, hdone⟩

/-- Settles O54, by induction on the schedule: a host's turn leaves the command in flight, and the
sequencer's turn, which comes at the latest when the schedule is over, completes it. -/
theorem issuedCommandCompletes : Obligations.IssuedCommandCompletes := by
  intro s hb hr
  induction hts : s.schedule generalizing s with
  | nil => exact hts ▸ completes_in_one_step (nextTurn_nil_busy hts hb) hb
  | cons turn ts ih =>
    have hn := nextTurn_cons hts
    cases turn with
    | sequencer => exact hts ▸ completes_in_one_step hn hb
    | reset => exact absurd (hts ▸ List.mem_cons_self) hr
    | host =>
      obtain ⟨o, ops, log, hturn⟩ := hostTurn_of_busy (s := s.setSchedule ts) hb
      have hstep := step_host hn
      rw [hts, List.tail_cons, hturn] at hstep
      obtain ⟨k, t, hk, hrun, hdone⟩ := ih { s with
        schedule := ts, block := { s.block with ovr := o }, program := ops, readLog := log } hb
        (fun h => hr (hts ▸ List.mem_cons_of_mem _ h)) rfl
      exact ⟨k + 1, t, Nat.succ_le_succ hk, (run_succ hstep).trans hrun, hdone⟩

end Sys2Proof.Machine
end

section
/-! PROOFS. The end of a run (R128). Both the place where a program has been performed and the read that
ends its run are the first of their kind on the run, so that there is one at most; a program is performed at
last since each step brings its end nearer, and in IDLE the first turn of the host is a read that ends the
run. -/

namespace Sys2Proof.Machine

/-! ### The first state of its kind on a run -/

/-- The run from `s` comes to a state with `P`, and `t` is the first one. -/
def FirstReaches (s : State) (P : State → Prop) (t : State) : Prop :=
  ∃ k, Host.Core.run Sys2Proof.core k s = .next t ∧ P t ∧
    ∀ j < k, ∀ x, Host.Core.run Sys2Proof.core j s = .next x → ¬P x

section FirstReaches

variable {s t t' : State} {P : State → Prop}

/-- A state with `P` is itself the first one of its run. -/
theorem FirstReaches.refl (h : P s) : FirstReaches s P s :=
  ⟨0, rfl, h, fun _ hj => absurd hj (Nat.not_lt_zero _)⟩

/-- The first state with `P` after a step from a state without `P` is the first one. -/
theorem FirstReaches.of_step (hs : ¬P s) (h : step s = .next t) (hrest : FirstReaches t P t') :
    FirstReaches s P t' := by
  obtain ⟨k, hrun, hP, hfirst⟩ := hrest
  refine ⟨k + 1, (run_succ h).trans hrun, hP, fun j hj x hx => ?_⟩
  cases j with
  | zero =>
    obtain rfl : s = x := Host.Outcome.next.inj hx
    exact hs
  | succ j => exact hfirst j (Nat.lt_of_succ_lt_succ hj) x ((run_succ h).symm.trans hx)

/-- There is one first state with `P` at most. -/
theorem FirstReaches.unique (h : FirstReaches s P t) (h' : FirstReaches s P t') : t = t' := by
  obtain ⟨k, hrun, hP, hfirst⟩ := h
  obtain ⟨k', hrun', hP', hfirst'⟩ := h'
  rcases lt_trichotomy k k' with hlt | rfl | hgt
  · exact absurd hP (hfirst' k hlt t hrun)
  · exact Host.Outcome.next.inj (hrun.symm.trans hrun')
  · exact absurd hP' (hfirst k' hgt t' hrun')

end FirstReaches

/-- A program has been performed at the first state that has only the later reads left (R128). -/
theorem programPerformed_iff {s v : State} {lines : List Line} {later : Nat} :
    ProgramPerformed s lines later v ↔
      FirstReaches (s.withProgram lines later) (fun x => x.program.length ≤ later) v := by
  simp only [ProgramPerformed, FirstReaches, Nat.not_le]

/-- The next step of `u` is a read that ends a run. -/
def EndsNext (u : State) : Prop := ∃ t, IdleRead u t

/-- A run ends with the first read that returns BUSY = 0 after its program has been performed (R128). -/
theorem runEndsIn_iff {s t : State} {lines : List Line} {later : Nat} :
    RunEndsIn s lines later t ↔
      ∃ v, ProgramPerformed s lines later v ∧ v.block.busy = false ∧
        ∃ u, FirstReaches v EndsNext u ∧ IdleRead u t := by
  constructor
  · rintro ⟨v, hv, hidle, k, u, hrun, hread, hfirst⟩
    refine ⟨v, hv, hidle, u, ⟨k, hrun, ⟨t, hread⟩, ?_⟩, hread⟩
    exact fun j hj x hx ⟨t', h⟩ => hfirst j hj x t' hx h
  · rintro ⟨v, hv, hidle, u, ⟨k, hrun, -, hfirst⟩, hread⟩
    exact ⟨v, hv, hidle, k, u, hrun, hread, fun j hj u' t' hu' h => hfirst j hj u' hu' ⟨t', h⟩⟩

/-! ### What a step leaves of the program -/

/-- A host turn takes the first operation off the program, unless it is a round of `wait` with a command in
flight. -/
theorem hostTurn_program (s : State) :
    ∃ b ops log, hostTurn s = { s with block := b, program := ops, readLog := log } ∧
      (ops = s.program.tail ∨ ops = s.program ∧ s.block.busy = true) := by
  rcases hostTurn_cases s with ⟨hp, e⟩ | ⟨a, ops, hp, e⟩ | ⟨a, v, ops, hp, e⟩ | ⟨ops, hp, e⟩
  · exact ⟨_, _, _, e, .inl (by rw [hp]; rfl)⟩
  · exact ⟨_, _, _, e, .inl (by rw [hp]; rfl)⟩
  · exact ⟨_, _, _, e, .inl (by rw [hp]; rfl)⟩
  · refine ⟨_, _, _, e, ?_⟩
    cases hb : s.block.busy with
    | true => exact .inr ⟨rfl, rfl⟩
    | false => exact .inl (by rw [hp]; rfl)

/-- In IDLE a step in the sequencer's turn takes the turn off the schedule, and changes nothing else (R25). -/
theorem step_sequencer_of_idle {s : State} (hn : s.nextTurn = .sequencer) (hb : s.block.busy = false) :
    step s = .next (s.setSchedule s.schedule.tail) :=
  (step_sequencer hn).trans (sequencerTurn_idle (Block.busy_eq_false.1 hb))

/-- A step takes a turn off the schedule, and one operation of the program at most. -/
theorem step_program (s : State) :
    ∃ b ops log, step s = .next { s with
        schedule := s.schedule.tail, block := b, program := ops, readLog := log } ∧
      (ops = s.program.tail ∨ ops = s.program) := by
  cases hn : s.nextTurn with
  | host =>
    obtain ⟨b, ops, log, hturn, hops⟩ := hostTurn_program (s.setSchedule s.schedule.tail)
    exact ⟨b, ops, log, (step_host hn).trans (congrArg _ hturn), hops.imp_right And.left⟩
  | reset => exact ⟨_, _, _, step_reset hn, .inr rfl⟩
  | sequencer =>
    cases hb : s.block.busy with
    | true =>
      obtain ⟨b, -, -, hstep⟩ := step_completed hn hb
      exact ⟨b, _, _, hstep, .inr rfl⟩
    | false => exact ⟨_, _, _, step_sequencer_of_idle hn hb, .inr rfl⟩

/-- No run has more of a program left than it started with. -/
theorem run_program_length_le {k : Nat} {s t : State} (h : Host.Core.run Sys2Proof.core k s = .next t) :
    t.program.length ≤ s.program.length := by
  induction k generalizing s with
  | zero =>
    obtain rfl : s = t := Host.Outcome.next.inj h
    exact le_rfl
  | succ k ih =>
    obtain ⟨b, ops, log, hstep, hops⟩ := step_program s
    refine (ih ((run_succ hstep).symm.trans h)).trans ?_
    rcases hops with rfl | rfl
    · simp
    · exact le_rfl

/-! ### Every program is performed -/

/-- A bound on the steps until the host's program is over: two for each turn of the schedule and for each
operation, which may put a command in flight, and one for the command in flight. -/
def State.stepsLeft (s : State) : Nat :=
  2 * (s.schedule.length + s.program.length) + s.block.busy.toNat

/-- A step with an operation left keeps the program or takes the operation off it, and comes nearer to the
program's end (R41, R126). -/
theorem step_stepsLeft {s : State} {op : HostOp s.params.PW} {ops : List (HostOp s.params.PW)}
    (hp : s.program = op :: ops) :
    ∃ b ops' ts log,
      step s = .next { s with schedule := ts, block := b, program := ops', readLog := log } ∧
      (ops' = ops ∨ ops' = op :: ops) ∧
      State.stepsLeft { s with schedule := ts, block := b, program := ops', readLog := log } <
        s.stepsLeft := by
  cases hts : s.schedule with
  | cons turn ts =>
    obtain ⟨b, ops', log, hstep, hops⟩ := step_program s
    rw [hp, List.tail_cons] at hops
    refine ⟨b, ops', _, log, hstep, hops, ?_⟩
    have hbusy := b.busy.toNat_le
    have hlen : ops'.length ≤ ops.length + 1 := by rcases hops with rfl | rfl <;> simp
    simp [State.stepsLeft, hts, hp]
    omega
  | nil =>
    cases hb : s.block.busy with
    | true =>
      obtain ⟨b, hidle, -, hstep⟩ := step_completed (nextTurn_nil_busy hts hb) hb
      exact ⟨b, _, _, _, hstep, .inr hp, by simp [State.stepsLeft, hts, hidle, hb]⟩
    | false =>
      obtain ⟨b, ops', log, hturn, hops⟩ := hostTurn_program (s.setSchedule s.schedule.tail)
      obtain rfl : ops' = ops := by simpa [hb, hp] using hops
      have hstep := (step_host (nextTurn_nil_idle hts hb)).trans (congrArg _ hturn)
      refine ⟨b, ops', _, log, hstep, .inl rfl, ?_⟩
      have hbusy := b.busy.toNat_le
      simp [State.stepsLeft, hts, hp]
      omega

/-- The reads of STATUS that follow a program, and are no part of it (log entry 11). -/
def laterReads (PW later : Nat) : List (HostOp PW) :=
  List.replicate later (.access (.read (slotOf .status)))

/-- Before any number of later reads, whatever the host does comes to its end: only the later reads are
left. -/
theorem exists_first_with_laterReads {s : State} {ops : List (HostOp s.params.PW)} {later : Nat}
    (hp : s.program = ops ++ laterReads s.params.PW later) :
    ∃ v, FirstReaches s (fun x => x.program.length ≤ later) v ∧
      v.program = laterReads v.params.PW later := by
  induction hleft : s.stepsLeft using Nat.strong_induction_on generalizing s with
  | _ left ih =>
    cases ops with
    | nil => exact ⟨s, .refl (by simp [hp, laterReads]), hp⟩
    | cons op ops =>
      obtain ⟨b, ops', ts, log, hstep, hops, hlt⟩ := step_stepsLeft hp
      have hrest : ∃ rest, ops' = rest ++ laterReads s.params.PW later :=
        hops.elim (fun h => ⟨ops, h⟩) fun h => ⟨op :: ops, h⟩
      obtain ⟨rest, hrest⟩ := hrest
      obtain ⟨v, hfirst, hv⟩ := ih _ (hleft ▸ hlt) hrest rfl
      exact ⟨v, .of_step (by simp [hp, laterReads]) hstep hfirst, hv⟩

/-- Every program is performed, and then just the later reads are left (R128). -/
theorem exists_programPerformed (s : State) (lines : List Line) (later : Nat) :
    ∃ v, ProgramPerformed s lines later v ∧ v.program = laterReads v.params.PW later := by
  simp only [programPerformed_iff]
  exact exists_first_with_laterReads (s := s.withProgram lines later) rfl

/-! ### The read that ends a run -/

/-- In IDLE the host's read of STATUS ends a run. -/
theorem idleRead_of_host {s : State} {ops : List (HostOp s.params.PW)} (hn : s.nextTurn = .host)
    (hp : s.program = .access (.read (slotOf .status)) :: ops) (hb : s.block.busy = false) :
    IdleRead s { s with
      schedule := s.schedule.tail
      program := ops
      readLog := (slotOf .status, s.block.hostRead (slotOf .status)) :: s.readLog } where
  reads := ⟨ops, hn, hp⟩
  step_eq := step_access ⟨hn, hp⟩
  idle := (statusRead_busy s.params.legal s.block).trans hb

/-- Only the host's turn ends a run. -/
theorem EndsNext.nextTurn_host {u : State} (h : EndsNext u) : u.nextTurn = .host := by
  obtain ⟨_, ⟨_, hn, -⟩, -, -⟩ := h
  exact hn

/-- A read that ends a run leaves IDLE, and it is the newest in the log of reads, with BUSY = 0. -/
theorem IdleRead.leaves_idle {u t : State} (h : IdleRead u t) :
    t.block.busy = false ∧ ∃ st log, t.readLog = (slotOf .status, st) :: log ∧ st.toNat % 2 = 0 := by
  obtain ⟨⟨ops, hnext⟩, hstep, hidle⟩ := h
  obtain rfl := Host.Outcome.next.inj ((step_access hnext).symm.trans hstep)
  have hb : u.block.busy = false := (statusRead_busy u.params.legal u.block).symm.trans hidle
  have hne := (statusRead_mod_two u.params u.block).not.2 (by simp [hb])
  exact ⟨hb, _, _, rfl, Nat.mod_two_ne_one.1 hne⟩

/-- In IDLE before a read of STATUS the host's first turn ends the run, since no other turn takes a register
off IDLE; without a reset none changes a register either (R25, R118). -/
theorem exists_first_idleRead {v : State} {ops : List (HostOp v.params.PW)} (hb : v.block.busy = false)
    (hp : v.program = .access (.read (slotOf .status)) :: ops) :
    ∃ u t, FirstReaches v EndsNext u ∧ IdleRead u t ∧
      (.reset ∉ v.schedule →
        ∃ ops ts log, t = { v with program := ops, schedule := ts, readLog := log }) := by
  induction hts : v.schedule generalizing v with
  | nil =>
    have hread := idleRead_of_host (nextTurn_nil_idle hts hb) hp hb
    exact ⟨v, _, .refl ⟨_, hread⟩, hread, fun _ => ⟨_, _, _, rfl⟩⟩
  | cons turn ts ih =>
    have hn := nextTurn_cons hts
    cases turn with
    | host =>
      have hread := idleRead_of_host hn hp hb
      exact ⟨v, _, .refl ⟨_, hread⟩, hread, fun _ => ⟨_, _, _, rfl⟩⟩
    | sequencer =>
      have hstep := step_sequencer_of_idle hn hb
      obtain ⟨u, t, hfirst, hread, hkeep⟩ :=
        ih (v := v.setSchedule v.schedule.tail) hb hp (by simp [hts])
      exact ⟨u, t, .of_step (fun h => nomatch hn.symm.trans h.nextTurn_host) hstep hfirst, hread,
        fun hr => hkeep fun hmem => hr (List.mem_cons_of_mem _ hmem)⟩
    | reset =>
      have hstep := step_reset hn
      obtain ⟨u, t, hfirst, hread, -⟩ := ih (v := { v with
        schedule := v.schedule.tail, block := Block.reset v.params.PW }) rfl hp (by simp [hts])
      exact ⟨u, t, .of_step (fun h => nomatch hn.symm.trans h.nextTurn_host) hstep hfirst, hread,
        fun hr => absurd List.mem_cons_self hr⟩

/-! ### The end state -/

section EndState

variable {s v t t' : State} {lines : List Line} {later : Nat}

/-- The place where a program has been performed is the only one. -/
theorem ProgramPerformed.unique {v' : State} (h : ProgramPerformed s lines later v)
    (h' : ProgramPerformed s lines later v') : v = v' :=
  (programPerformed_iff.1 h).unique (programPerformed_iff.1 h')

/-- A program that ends with BUSY = 1 has no end state (R128). -/
theorem ProgramPerformed.no_end_of_busy (h : ProgramPerformed s lines later v)
    (hb : v.block.busy = true) : ¬RunEndsIn s lines later t := by
  rintro ⟨v', hv', hidle, -⟩
  obtain rfl := h.unique hv'
  simp [hb] at hidle

/-- A program that ends with BUSY = 0 has an end state where a later read follows; without a reset the
registers are those at the program's end (R128). -/
theorem ProgramPerformed.exists_end_of_idle (h : ProgramPerformed s lines later v)
    (hp : v.program = laterReads v.params.PW later) (hb : v.block.busy = false) (hlater : 1 ≤ later) :
    ∃ t, RunEndsIn s lines later t ∧
      (.reset ∉ v.schedule →
        ∃ ops ts log, t = { v with program := ops, schedule := ts, readLog := log }) := by
  obtain ⟨n, rfl⟩ := Nat.exists_eq_add_of_le' hlater
  obtain ⟨u, t, hfirst, hread, hkeep⟩ := exists_first_idleRead hb hp
  exact ⟨t, runEndsIn_iff.2 ⟨v, h, hb, u, hfirst, hread⟩, hkeep⟩

/-- A run has one end state at most (R128). -/
theorem RunEndsIn.unique (h : RunEndsIn s lines later t) (h' : RunEndsIn s lines later t') : t' = t := by
  obtain ⟨v, hv, -, u, hu, hread⟩ := runEndsIn_iff.1 h
  obtain ⟨v', hv', -, u', hu', hread'⟩ := runEndsIn_iff.1 h'
  obtain rfl := hv.unique hv'
  obtain rfl := hu.unique hu'
  exact Host.Outcome.next.inj (hread'.step_eq.symm.trans hread.step_eq)

/-- Without a later read a run does not end: no step adds to the program (R128). -/
theorem RunEndsIn.one_le_later (h : RunEndsIn s lines later t) : 1 ≤ later := by
  obtain ⟨v, ⟨_, _, hle, -⟩, -, k, u, hrun, ⟨⟨ops, -, hp⟩, -, -⟩, -⟩ := h
  calc 1 ≤ u.program.length := by simp [hp]
    _ ≤ v.program.length := run_program_length_le hrun
    _ ≤ later := hle

end EndState

/-- Settles O60: each program is performed at one place, and from there in IDLE the host's first turn ends
the run, if a read is left for it. -/
theorem runHasOneEndState : Obligations.RunHasOneEndState := by
  intro s lines later
  obtain ⟨v, hv, hp⟩ := exists_programPerformed s lines later
  refine ⟨⟨v, hv, fun hb t => hv.no_end_of_busy hb, fun hb hlater => ?_, fun hb hlater hr => ?_⟩, ?_⟩
  · obtain ⟨t, hend, -⟩ := hv.exists_end_of_idle hp hb hlater
    exact ⟨t, hend⟩
  · obtain ⟨_, hend, hkeep⟩ := hv.exists_end_of_idle hp hb hlater
    obtain ⟨ops, ts, log, rfl⟩ := hkeep hr
    exact ⟨ops, ts, log, hend⟩
  · intro t hend
    obtain ⟨v', -, -, u, -, hread⟩ := runEndsIn_iff.1 hend
    obtain ⟨hidle, hlog⟩ := hread.leaves_idle
    exact ⟨hend.one_le_later, hidle, hlog, fun t' hend' => hend.unique hend'⟩

end Sys2Proof.Machine
end
